-- ==== Sys2Proof/Config.lean ====
section
/-! DEFINITION. The implementation parameters of 00_scope.md section 3, and the one free value of the model. `LEN_W`,
`ADDR_W` and `KMAX` are arguments of the model (I11): its definitions take them as implicit arguments of these names, which
the type of the machine carries; the constants here are their defaults. -/

namespace Sys2Proof.Config

/-- R3: the largest field width of one `READ_BITS`. -/
abbrev NMAX : Nat := 32

/-- R4: the default of the parameter `LEN_W`, the width of `LEN` (log 14). -/
abbrev LEN_W : Nat := 32

/-- R6: the default of the parameter `ADDR_W`, the width of a byte address (log 14). -/
abbrev ADDR_W : Nat := 64

/-- R7: the default of the parameter `KMAX`, the longest run of leading zero bits of an accepted Exp-Golomb codeword
(log 14). -/
abbrev KMAX : Nat := 31

/-- R5: the width of the cursor and of the snapshot register. -/
abbrev POS_W (LEN_W : Nat := 32) : Nat := LEN_W + 1

/-- R5: the value the cursor saturates at. -/
abbrev POS_MAX (LEN_W : Nat := 32) : Nat := 2 ^ POS_W LEN_W - 1

/-- 00_scope.md section 3: the width of the signed remaining-bits value. -/
abbrev BL_W (LEN_W : Nat := 32) : Nat := LEN_W + 2

/-- R8: the width of the result port. -/
abbrev RES_W : Nat := 64

/-- R43: the value of a stream bit at or beyond the end of the buffer. -/
abbrev FILL : Bool := false

/-- R49, I6: the bit a command reads from a byte whose contents the rules leave unconstrained. The first argument
numbers the instance of BREG that reads (R149), the second its reading command, the third is the stream position, so that
every such bit of every read of every instance is a value of its own. It has no body: nothing is known of any of its values
(log 5, 6, 7, 13). -/
opaque freeBit : Nat → Nat → Nat → Bool

end Sys2Proof.Config
end

