-- ==== Sys2Proof/Word.lean ====
section
/-! DEFINITION. The word types of the registers and ports (R20, R60). A width that is a parameter is an argument, its
default written as a numeral; Sys2Proof/Laws/Config.lean proves that the defaults are those of Config.lean. -/

namespace Sys2Proof

/-- One byte of memory (R40). -/
abbrev Byte := BitVec 8

/-- A byte address of the memory port, `ADDR_W` bits (R6). -/
abbrev Addr (ADDR_W : Nat := 64) := BitVec ADDR_W

/-- A count of bits, `LEN_W` bits (R4): `LEN`, and the operand port `ARG_B`. -/
abbrev BitLen (LEN_W : Nat := 32) := BitVec LEN_W

/-- A stream position held in a register, `POS_W` bits (R5). -/
abbrev Cursor (LEN_W : Nat := 32) := BitVec (LEN_W + 1)

/-- A command word (R61). -/
abbrev CmdWord := BitVec 32

/-- The result port, `RES_W` bits (R8). -/
abbrev Result := BitVec 64

end Sys2Proof
end

