-- ==== Sys2Proof/Machine/State.lean ====
section
/-! DEFINITION. The state of the machine: BREG's four registers (R20), its ports (R60), the external memory it reads
(R40), what the host does next, and the bookkeeping of the free values (R49). Everything is plain data. The types carry the
parameters (I11): `State` alone is the machine at their defaults, `State LEN_W ADDR_W KMAX` the one at other values. -/

namespace Sys2Proof.Machine

open Sys2Proof

/-- R60: the host's half of a transaction, the values on the ports `CMD`, `ARG_A` and `ARG_B`. -/
structure Request (LEN_W : Nat := 32) (ADDR_W : Nat := 64) where
  cmd : CmdWord
  argA : Addr ADDR_W
  argB : BitLen LEN_W
  deriving DecidableEq, Repr

/-- R60: BREG's half of a transaction, the ports `RESULT` and `ST` (laid out by R66). -/
structure Response where
  result : Result
  st : BitVec 3
  deriving DecidableEq, Repr

/-- What reaches BREG and its memory from outside (log 1). -/
inductive Input (LEN_W : Nat := 32) (ADDR_W : Nat := 64) where
  /-- The host issues a command and waits for its response (R60). -/
  | command (r : Request LEN_W ADDR_W)
  /-- The host presents `second` before the response to `first`: the spec gives this no meaning (R167, I9). -/
  | overlap (first second : Request LEN_W ADDR_W)
  /-- The host writes a byte of the memory (R49, R50, R52). -/
  | memWrite (a : Addr ADDR_W) (b : Byte)
  /-- From here on the byte at `a` is not idempotent memory, so the host's duty of R47 is broken for it. -/
  | mapDevice (a : Addr ADDR_W)
  /-- The surrounding system resets the block (R160). -/
  | reset
  deriving DecidableEq, Repr

/-- The external memory as address and byte pairs, in the canonical form of `Memory.wf` (Machine/Ops.lean). -/
abbrev Memory := List Host.Cell

/-- The machine. The first four fields are the registers of R20. `KMAX` is the width of no field: it is the parameter the
Exp-Golomb decode reads (R7, R101). -/
structure State (LEN_W : Nat := 32) (ADDR_W : Nat := 64) (KMAX : Nat := 31) where
  /-- `BASE` (R21). -/
  base : Addr ADDR_W
  /-- `LEN` (R26). -/
  len : BitLen LEN_W
  /-- `POS` (R23). -/
  pos : Cursor LEN_W
  /-- `SNAP` (R25). -/
  snap : Cursor LEN_W
  /-- The external memory (R40). -/
  mem : Memory
  /-- Addresses that are not idempotent memory (R47), strictly rising. -/
  devices : List Nat
  /-- Buffer bytes the host has written in this session (R49), strictly rising. -/
  disturbed : List Nat
  /-- Which instance of BREG this is (R149): the free values of two instances are different ones (log 13). -/
  unitNo : Nat
  /-- How many reading commands have been performed: the index of the next free values (log 7). -/
  draws : Nat
  /-- The input ports: the transaction BREG is performing or has last performed (R60). -/
  port : Request LEN_W ADDR_W
  /-- The response to the last command, none before the first (R28, log 2). -/
  response : Option Response
  /-- What the host and the system do next, oldest first (log 1). -/
  inputs : List (Input LEN_W ADDR_W)
  deriving DecidableEq, Repr

/-- No rule of the spec stops the machine with a fault: "Nothing in BREG is modelled as `fault` or `stuck`"
(93_implementation_defined.md, R12, R145). So the type has no constructor. -/
inductive Fault where
  deriving DecidableEq, Repr

/-- Why the model gives no next state. -/
inductive Refusal where
  /-- An instruction of the table without a meaning: raised by no arm, since every instruction has one. Safe. -/
  | notModelled (mnemonic : String)
  /-- Raised by `step` on the input `overlap`: "The spec does not define what BREG does with a command presented while
  another is in progress" (R167; I9: "refuse"). Safe (log 8). -/
  | overlappingCommands
  deriving DecidableEq, Repr

/-- The machine right after power-up and reset, for any parameters: every register zero (R30, R160), memory with nothing
listed (log 4), no response given (log 2), the ports at zero (log 3), nothing to do (log 1), instance number 0 (log 13). -/
def State.resetAt (LEN_W ADDR_W KMAX : Nat) : State LEN_W ADDR_W KMAX where
  base := 0
  len := 0
  pos := 0
  snap := 0
  mem := []
  devices := []
  disturbed := []
  unitNo := 0
  draws := 0
  port := { cmd := 0, argA := 0, argB := 0 }
  response := none
  inputs := []

/-- The machine right after reset, at the default parameters. -/
def State.reset : State := State.resetAt 32 64 31

/-! One update per field; Sys2Proof/Laws/State.lean says what each leaves. -/

section

variable {LEN_W ADDR_W KMAX : Nat} (s : State LEN_W ADDR_W KMAX)

def State.setBase (v : Addr ADDR_W) : State LEN_W ADDR_W KMAX := { s with base := v }
def State.setLen (v : BitLen LEN_W) : State LEN_W ADDR_W KMAX := { s with len := v }
def State.setPos (v : Cursor LEN_W) : State LEN_W ADDR_W KMAX := { s with pos := v }
def State.setSnap (v : Cursor LEN_W) : State LEN_W ADDR_W KMAX := { s with snap := v }
def State.setMem (v : Memory) : State LEN_W ADDR_W KMAX := { s with mem := v }
def State.setDevices (v : List Nat) : State LEN_W ADDR_W KMAX := { s with devices := v }
def State.setDisturbed (v : List Nat) : State LEN_W ADDR_W KMAX := { s with disturbed := v }
def State.setUnitNo (v : Nat) : State LEN_W ADDR_W KMAX := { s with unitNo := v }
def State.setDraws (v : Nat) : State LEN_W ADDR_W KMAX := { s with draws := v }
def State.setPort (v : Request LEN_W ADDR_W) : State LEN_W ADDR_W KMAX := { s with port := v }
def State.setResponse (v : Option Response) : State LEN_W ADDR_W KMAX := { s with response := v }
def State.setInputs (v : List (Input LEN_W ADDR_W)) : State LEN_W ADDR_W KMAX := { s with inputs := v }

end

end Sys2Proof.Machine
end

