-- ==== Sys2Proof/Machine/Flags.lean ====
section
/-! DEFINITION. The remaining bits (R22) and the three status bits of a response (R28, R29, R66). -/

namespace Sys2Proof.Machine

variable {LEN_W ADDR_W KMAX : Nat}

/-- R22: `BitsLeft() = LEN − POS`, an integer. -/
def bitsLeft (s : State LEN_W ADDR_W KMAX) : Int := (s.len.toNat : Int) - (s.pos.toNat : Int)

/-- R29: `ST.NEG` is 1 exactly when the remaining bits are negative. -/
def negFlag (s : State LEN_W ADDR_W KMAX) : Bool := decide (bitsLeft s < 0)

/-- R66: `ST[0] = ILL`, `ST[1] = NEG`, `ST[2] = UEF`. -/
def statusWord (ill neg uef : Bool) : BitVec 3 := BitVec.ofBool uef ++ BitVec.ofBool neg ++ BitVec.ofBool ill

/-- R66: the illegal-command bit of a response. -/
def Response.ill (r : Response) : Bool := r.st.getLsbD 0

/-- R66: the overread bit of a response. -/
def Response.neg (r : Response) : Bool := r.st.getLsbD 1

/-- R66: the Exp-Golomb failure bit of a response. -/
def Response.uef (r : Response) : Bool := r.st.getLsbD 2

end Sys2Proof.Machine
end

