-- ==== Sys2Proof/Machine/Operands.lean ====
section
/-! DEFINITION. How operands are taken from the ports and the command word (R64), and how a value is placed on the
result port (R65). -/

namespace Sys2Proof.Machine

open Sys2Proof

variable {LEN_W ADDR_W KMAX : Nat}

/-- R64: `ARG_A` whole, as an address. -/
def operandA (s : State LEN_W ADDR_W KMAX) : Addr ADDR_W := s.port.argA

/-- R64: `ARG_B` whole, as an unsigned count of bits. -/
def operandB (s : State LEN_W ADDR_W KMAX) : BitLen LEN_W := s.port.argB

/-- R64: `N` zero-extended: a count of bits, without sign, scale or shift. -/
def fieldWidth (n : BitVec 6) : Nat := n.toNat

/-- R65: the result of a command without a value, and of an illegal one. -/
def resultZero : Result := 0

/-- R65, R11: an unsigned value, zero-extended. A `KMAX` of at most 31 keeps it within 32 bits (log 14). -/
def resultUnsigned (v : Nat) : Result := BitVec.ofNat 64 v

/-- R65, R11: a signed value, sign-extended. A `KMAX` of at most 31 keeps it within 32 bits (log 14). -/
def resultSigned (v : Int) : Result := BitVec.ofInt 64 v

/-- R65, R22: the remaining bits as a `BL_W`-bit two's-complement value, sign-extended. -/
def resultBitsLeft (LEN_W : Nat) (b : Int) : Result := (BitVec.ofInt (Config.BL_W LEN_W) b).signExtend 64

/-- R105: the value of a failed `READ_UE`. -/
def ueSentinel : Nat := 0xFFFFFFFF

/-- R112: the value of a failed `READ_SE`, `0x80000000` as a 32-bit two's-complement number. -/
def seSentinel : Int := -(2 ^ 31)

end Sys2Proof.Machine
end

