-- ==== Sys2Proof/Machine/Ops.lean ====
section
/-! DEFINITION. The operations the instructions share: the memory port and the stream bits (20_memory.md), the cursor
(R24), the response (R12), the Exp-Golomb decode (R101 to R105), the illegal-command response (R141), and what the inputs
other than commands do. -/

namespace Sys2Proof.Machine

open Sys2Proof

variable {LEN_W ADDR_W KMAX : Nat}

/-! ### Memory -/

/-- What an address reads as that nothing has written: the model's choice, unsafe (log 4). -/
def unlistedByte : Byte := 0

/-- The byte at an address (R40). -/
def Memory.read : Memory → Nat → Byte
  | [], _ => unlistedByte
  | (k, c) :: rest, a => if a = k then c else Memory.read rest a

/-- The memory after one byte is written; the canonical form is kept. Only the host writes (R40). -/
def Memory.write : Memory → Nat → Byte → Memory
  | [], a, b => if b = unlistedByte then [] else [(a, b)]
  | (k, c) :: rest, a, b =>
    if a < k then (if b = unlistedByte then (k, c) :: rest else (a, b) :: (k, c) :: rest)
    else if a = k then (if b = unlistedByte then rest else (k, b) :: rest)
    else (k, c) :: Memory.write rest a b

/-- The canonical form: addresses strictly rising and in the address space, no entry that reads as an unlisted one. -/
abbrev Memory.wf (m : Memory) (ADDR_W : Nat := 64) : Prop :=
  m.Pairwise (fun x y => x.1 < y.1) ∧ ∀ c ∈ m, c.1 < 2 ^ ADDR_W ∧ c.2 ≠ unlistedByte

/-- A set of addresses: strictly rising and in the address space. -/
abbrev addrsWf (l : List Nat) (ADDR_W : Nat := 64) : Prop := l.Pairwise (· < ·) ∧ ∀ a ∈ l, a < 2 ^ ADDR_W

/-- Adds an address to a set of addresses. -/
def insertAddr : List Nat → Nat → List Nat
  | [], a => [a]
  | k :: rest, a =>
    if a < k then a :: k :: rest
    else if a = k then k :: rest
    else k :: insertAddr rest a

/-- R40: `MemRead(addr, 1)`. -/
def memRead (s : State LEN_W ADDR_W KMAX) (a : Addr ADDR_W) : Byte := s.mem.read a.toNat

/-! ### The stream (R42 to R54) -/

/-- R45: the byte address of stream position `p`, `(BASE + p div 8) mod 2^ADDR_W`. -/
def byteAddr (s : State LEN_W ADDR_W KMAX) (p : Nat) : Addr ADDR_W := BitVec.ofNat ADDR_W (s.base.toNat + p / 8)

/-- R44: the number of bytes of the buffer, `ceil(LEN / 8)`. -/
def bufferBytes (s : State LEN_W ADDR_W KMAX) : Nat := (s.len.toNat + 7) / 8

/-- R44: the address is one of the buffer's, `(BASE + j) mod 2^ADDR_W` with `j < ceil(LEN / 8)`. -/
def inBuffer (s : State LEN_W ADDR_W KMAX) (a : Addr ADDR_W) : Bool :=
  decide ((a - s.base).toNat < bufferBytes s)

/-- R47, R49: the rules leave the bits read from this byte unconstrained. -/
def unstable (s : State LEN_W ADDR_W KMAX) (a : Addr ADDR_W) : Bool :=
  decide (a.toNat ∈ s.devices ∨ a.toNat ∈ s.disturbed)

/-- R42: bit `7 − (p mod 8)` of the byte of stream position `p`, the fill at or beyond `LEN` (R43), a free bit where the
byte is unstable (R49), a different one for each instance, reading command and position (log 7, 13). This is the one place that holds the bit order (R41). -/
def streamBit (s : State LEN_W ADDR_W KMAX) (p : Nat) : Bool :=
  if s.len.toNat ≤ p then Config.FILL
  else if unstable s (byteAddr s p) then Config.freeBit s.unitNo s.draws p
  else (memRead s (byteAddr s p)).getLsbD (7 - p % 8)

/-- R54: the `n`-bit value at stream positions `p .. p+n−1`, the first bit the most significant. -/
def readStream (s : State LEN_W ADDR_W KMAX) (p : Nat) : Nat → Nat
  | 0 => 0
  | n + 1 => 2 * readStream s p n + (streamBit s (p + n)).toNat

/-- The next reading command has free values of its own (R49 "independently for each read", log 7). -/
def nextDraw (s : State LEN_W ADDR_W KMAX) : State LEN_W ADDR_W KMAX := s.setDraws (s.draws + 1)

/-! ### The cursor and the response -/

/-- R11: `sat(v) = min(v, POS_MAX)`, as the cursor holds it. -/
def saturate (v : Nat) : Cursor LEN_W := BitVec.ofNat (LEN_W + 1) (min v (Config.POS_MAX LEN_W))

/-- R24: `POS <- min(POS + n, POS_MAX)`. -/
def advance (s : State LEN_W ADDR_W KMAX) (n : Nat) : State LEN_W ADDR_W KMAX := s.setPos (saturate (s.pos.toNat + n))

/-- R12: the end of a command: `RESULT`, `ST.ILL` and `ST.UEF` as given, `ST.NEG` from the registers (R29). -/
def respond (s : State LEN_W ADDR_W KMAX) (result : Result) (ill uef : Bool) : State LEN_W ADDR_W KMAX :=
  s.setResponse (some { result := result, st := statusWord ill (negFlag s) uef })

/-- R141: the response to an illegal command word. It stands where other machines take an exception: BREG takes none
(R145), changes no register and reads no memory. -/
def illegalCommand (s : State LEN_W ADDR_W KMAX) : State LEN_W ADDR_W KMAX := respond s resultZero true false

/-- R80: the registers at the start of a session. The bytes the host disturbed in the last session count no more
(R49, R52). -/
def startSession (s : State LEN_W ADDR_W KMAX) (base : Addr ADDR_W) (len : BitLen LEN_W) : State LEN_W ADDR_W KMAX :=
  ((((s.setBase base).setLen len).setPos 0).setSnap 0).setDisturbed []

/-! ### The Exp-Golomb decode -/

/-- R101: the prefix scan from `k` zeros on; `fuel` is `KMAX + 1 − k`, the positions it may still examine (R7). -/
def uePrefixFrom (s : State LEN_W ADDR_W KMAX) : Nat → Nat → Option Nat
  | 0, _ => none
  | fuel + 1, k =>
    if s.len.toNat ≤ s.pos.toNat + k then none
    else if streamBit s (s.pos.toNat + k) then some k
    else uePrefixFrom s fuel (k + 1)

/-- R101: `UEPrefix()`: the length of the run of zeros at the cursor, `none` for FAIL. -/
def uePrefix (s : State LEN_W ADDR_W KMAX) : Option Nat := uePrefixFrom s (KMAX + 1) 0

/-- R105: the cursor after a failed decode, `POS <- sat(max(POS, LEN) + 1)`. -/
def ueFail (s : State LEN_W ADDR_W KMAX) : State LEN_W ADDR_W KMAX :=
  s.setPos (saturate (max s.pos.toNat s.len.toNat + 1))

/-- R102, R105: `UEDecode()`: the value (`none` for FAIL) and the machine after it. -/
def ueDecode (s : State LEN_W ADDR_W KMAX) : Option Nat × State LEN_W ADDR_W KMAX :=
  match uePrefix s with
  | none => (none, ueFail s)
  | some k =>
    let s₁ := advance s (k + 1)
    (some (2 ^ k - 1 + readStream s₁ s₁.pos.toNat k), advance s₁ k)

/-- R111: `SEMap(v)`. -/
def seMap (v : Nat) : Int := if v % 2 = 1 then ((v + 1) / 2 : Nat) else -((v / 2 : Nat) : Int)

/-! ### The inputs -/

/-- R60: BREG takes a command: its words are on the ports, and the rest of the inputs is still to come. -/
def accept (s : State LEN_W ADDR_W KMAX) (r : Request LEN_W ADDR_W) (rest : List (Input LEN_W ADDR_W)) :
    State LEN_W ADDR_W KMAX :=
  (s.setPort r).setInputs rest

/-- R49, R165: the host writes a byte; one of the session's buffer is disturbed until the next `INIT` or reset (log 5). -/
def hostWrite (s : State LEN_W ADDR_W KMAX) (a : Addr ADDR_W) (b : Byte) : State LEN_W ADDR_W KMAX :=
  let s₁ := s.setMem (s.mem.write a.toNat b)
  if inBuffer s a then s₁.setDisturbed (insertAddr s.disturbed a.toNat) else s₁

/-- R47: the byte at the address is no idempotent memory (log 6). -/
def mapDevice (s : State LEN_W ADDR_W KMAX) (a : Addr ADDR_W) : State LEN_W ADDR_W KMAX :=
  s.setDevices (insertAddr s.devices a.toNat)

/-- R160: reset sets the registers to zero (R30), abandons any session and leaves memory untouched. No response has been
given since (log 2). The input ports keep what the host last put on them: the model's choice (log 3). -/
def externalReset (s : State LEN_W ADDR_W KMAX) : State LEN_W ADDR_W KMAX := (startSession s 0 0).setResponse none

/-- R150: with nothing to do BREG is idle and holds its registers. -/
def idle (s : State LEN_W ADDR_W KMAX) : State LEN_W ADDR_W KMAX := s

end Sys2Proof.Machine
end

