-- ==== Sys2Proof/Machine/CursorStatus.lean ====
section
/-! DEFINITION. The meanings of `BITS_LEFT`, `SNAP` and `RESTORE` (42_cursor_status.md). -/

namespace Sys2Proof.Machine

open Sys2Proof

variable {LEN_W ADDR_W KMAX : Nat}

/-- R120: `BITS_LEFT`. -/
def execBitsLeft (s : State LEN_W ADDR_W KMAX) : Host.Outcome (State LEN_W ADDR_W KMAX) Fault Refusal :=
  .next (respond s (resultBitsLeft LEN_W (bitsLeft s)) false false)

/-- R125: `SNAP`. -/
def execSnap (s : State LEN_W ADDR_W KMAX) : Host.Outcome (State LEN_W ADDR_W KMAX) Fault Refusal :=
  .next (respond (s.setSnap s.pos) resultZero false false)

/-- R130: `RESTORE`. -/
def execRestore (s : State LEN_W ADDR_W KMAX) : Host.Outcome (State LEN_W ADDR_W KMAX) Fault Refusal :=
  .next (respond (s.setPos s.snap) resultZero false false)

end Sys2Proof.Machine
end

