-- ==== Sys2Proof/Machine/ExpGolomb.lean ====
section
/-! DEFINITION. The meanings of `READ_UE` and `READ_SE` (41_exp_golomb.md), and the codeword format they read (R70, R71)
as an encoder (93_implementation_defined.md G3). -/

namespace Sys2Proof.Machine

open Sys2Proof

variable {LEN_W ADDR_W KMAX : Nat}

/-- R100: `READ_UE`. -/
def execReadUe (s : State LEN_W ADDR_W KMAX) : Host.Outcome (State LEN_W ADDR_W KMAX) Fault Refusal :=
  match ueDecode s with
  | (some v, t) => .next (respond (nextDraw t) (resultUnsigned v) false false)
  | (none, t) => .next (respond (nextDraw t) (resultUnsigned ueSentinel) false true)

/-- R110: `READ_SE`. -/
def execReadSe (s : State LEN_W ADDR_W KMAX) : Host.Outcome (State LEN_W ADDR_W KMAX) Fault Refusal :=
  match ueDecode s with
  | (some v, t) => .next (respond (nextDraw t) (resultSigned (seMap v)) false false)
  | (none, t) => .next (respond (nextDraw t) (resultSigned seSentinel) false true)

/-! ### The codeword format -/

/-- The `n` low bits of a value, the most significant first. -/
def bitsOf (v : Nat) : Nat → List Bool
  | 0 => []
  | n + 1 => v.testBit n :: bitsOf v n

/-- G3: the length of the run of zeros of a value's codeword, `k = floor(log2(v + 1))`. -/
def ueZeros (v : Nat) : Nat := Nat.log2 (v + 1)

/-- R70, G3: the codeword of `v`: `k` zeros, a one, then `v + 1 − 2^k` in `k` bits. -/
def ueCodeword (v : Nat) : List Bool :=
  List.replicate (ueZeros v) false ++ true :: bitsOf (v + 1 - 2 ^ ueZeros v) (ueZeros v)

/-- R71, 95_test_vectors.md E3: the unsigned value whose codeword stands for a signed value: `2v − 1` for `v > 0`, `−2v`
for `v ≤ 0`. -/
def seIndex (v : Int) : Nat := if 0 < v then (2 * v - 1).toNat else (-(2 * v)).toNat

/-- R71: the codeword of a signed value. -/
def seCodeword (v : Int) : List Bool := ueCodeword (seIndex v)

end Sys2Proof.Machine
end

