-- ==== Sys2Proof/Machine/FixedWidth.lean ====
section
/-! DEFINITION. The meanings of `INIT`, `READ_BITS` and `SKIP_BITS` (40_fixed_width.md). -/

namespace Sys2Proof.Machine

open Sys2Proof

variable {LEN_W ADDR_W KMAX : Nat}

/-- R80: `INIT`. -/
def execInit (s : State LEN_W ADDR_W KMAX) : Host.Outcome (State LEN_W ADDR_W KMAX) Fault Refusal :=
  .next (respond (startSession s (operandA s) (operandB s)) resultZero false false)

/-- R83: `READ_BITS n`. A width above 32 is no legal command (R3); no decoded word holds one, and this arm answers it as
R141 answers an illegal command (log 10). -/
def execReadBits (n : BitVec 6) (s : State LEN_W ADDR_W KMAX) : Host.Outcome (State LEN_W ADDR_W KMAX) Fault Refusal :=
  if fieldWidth n ≤ Config.NMAX then
    let value := readStream s s.pos.toNat (fieldWidth n)
    .next (respond (nextDraw (advance s (fieldWidth n))) (resultUnsigned value) false false)
  else .next (illegalCommand s)

/-- R90: `SKIP_BITS`. -/
def execSkipBits (s : State LEN_W ADDR_W KMAX) : Host.Outcome (State LEN_W ADDR_W KMAX) Fault Refusal :=
  .next (respond (advance s (operandB s).toNat) resultZero false false)

end Sys2Proof.Machine
end

