-- ==== Sys2Proof/Syntax.lean ====
section
/-! DEFINITION. The eight commands of BREG-1 (R2, opcode_table.json). A command names no register and carries no
operand but the field `N` of `READ_BITS`; the other operands are on the ports `ARG_A` and `ARG_B` (R60, R64). -/

namespace Sys2Proof

/-- One constructor per row of the opcode table (R62). -/
inductive Instr where
  /-- `INIT` (R80): start a session. -/
  | init
  /-- `READ_BITS` (R83): read the next `n` bits; `n` is the field `N = CMD[5:0]`. -/
  | readBits (n : BitVec 6)
  /-- `SKIP_BITS` (R90): advance the cursor by `ARG_B`. -/
  | skipBits
  /-- `READ_UE` (R100): decode an unsigned Exp-Golomb codeword. -/
  | readUe
  /-- `READ_SE` (R110): decode a signed Exp-Golomb codeword. -/
  | readSe
  /-- `BITS_LEFT` (R120): report the remaining bits. -/
  | bitsLeft
  /-- `SNAP` (R125): save the cursor. -/
  | snap
  /-- `RESTORE` (R130): return the cursor to the snapshot. -/
  | restore
  deriving DecidableEq, Repr

end Sys2Proof
end

