-- ==== Sys2Proof/Machine/Dispatch.lean ====
section
/-! DEFINITION. One arm per command (R62). -/

namespace Sys2Proof.Machine

open Sys2Proof

/-- The meaning of an instruction. -/
def exec (i : Instr) (s : State) : Host.Outcome State Fault Refusal :=
  match i with
  | .init => Sys2Proof.Machine.execInit s
  | .readBits n => Sys2Proof.Machine.execReadBits n s
  | .skipBits => Sys2Proof.Machine.execSkipBits s
  | .readUe => Sys2Proof.Machine.execReadUe s
  | .readSe => Sys2Proof.Machine.execReadSe s
  | .bitsLeft => Sys2Proof.Machine.execBitsLeft s
  | .snap => Sys2Proof.Machine.execSnap s
  | .restore => Sys2Proof.Machine.execRestore s

end Sys2Proof.Machine
end

