-- ==== Sys2Proof/WellFormed.lean ====
section
/-! DEFINITION. Which instructions a legal command word can name (R3, R63). -/

namespace Sys2Proof

/-- R63: the one check on an instruction's fields is the width of `READ_BITS`, `N ≤ 32`. -/
def Instr.wellFormed : Instr → Bool
  | .init => true
  | .readBits n => decide (n.toNat ≤ Config.NMAX)
  | .skipBits => true
  | .readUe => true
  | .readSe => true
  | .bitsLeft => true
  | .snap => true
  | .restore => true

end Sys2Proof
end

