-- ==== Sys2Proof/Decode.lean ====
section
/-! DEFINITION. The command word: its fields (R61), legality (R63), the decoder, the encoder (R62), and the mask and
match of each row of opcode_table.json. -/

namespace Sys2Proof

/-- R61: `OP = CMD[31:28]`. -/
def opField (w : CmdWord) : BitVec 4 := w.extractLsb' 28 4

/-- R61: `RSV = CMD[27:6]`. -/
def rsvField (w : CmdWord) : BitVec 22 := w.extractLsb' 6 22

/-- R61: `N = CMD[5:0]`. -/
def widthField (w : CmdWord) : BitVec 6 := w.extractLsb' 0 6

/-- R63: the legality of a command word, as the rule writes it. -/
def legal (w : CmdWord) : Bool :=
  (opField w ∈ [0x1#4, 0x2#4, 0x3#4, 0x4#4, 0x5#4, 0x6#4, 0x7#4, 0x8#4])
    && rsvField w == 0
    && (if opField w == 0x2#4 then decide ((widthField w).toNat ≤ Config.NMAX) else widthField w == 0)

/-- Why a command word is illegal (R63). Which of several reasons a word is given is the model's choice (log 9); the
response of BREG is the same for all (R141). -/
inductive Reject where
  /-- `OP` is 0x0 or 0x9 to 0xF (R62). -/
  | unassignedOp
  /-- `RSV` is not 0 (R61). -/
  | reservedBits
  /-- `N` is not 0 in an operation that has no width (R61). -/
  | strayWidth
  /-- `N` is above 32 in `READ_BITS` (R3). -/
  | widthTooLarge
  deriving DecidableEq, Repr

/-- A word of an operation without a field: `RSV` and `N` must be 0 (R63). -/
def decodePlain (w : CmdWord) (i : Instr) : Except Reject Instr :=
  if rsvField w ≠ 0 then .error .reservedBits
  else if widthField w ≠ 0 then .error .strayWidth
  else .ok i

/-- A word of `READ_BITS`: `RSV` must be 0 and `N` at most 32 (R63). -/
def decodeReadBits (w : CmdWord) : Except Reject Instr :=
  if rsvField w ≠ 0 then .error .reservedBits
  else if (widthField w).toNat > Config.NMAX then .error .widthTooLarge
  else .ok (.readBits (widthField w))

/-- R62, R68: total on every 32-bit word; the operation is told from `CMD[31:28]` alone. -/
def decode (w : CmdWord) : Except Reject Instr :=
  match (opField w).toNat with
  | 0x1 => decodePlain w .init
  | 0x2 => decodeReadBits w
  | 0x3 => decodePlain w .skipBits
  | 0x4 => decodePlain w .readUe
  | 0x5 => decodePlain w .readSe
  | 0x6 => decodePlain w .bitsLeft
  | 0x7 => decodePlain w .snap
  | 0x8 => decodePlain w .restore
  | _ => .error .unassignedOp

/-- R62: the operation code of each command. -/
def opCode : Instr → BitVec 4
  | .init => 0x1#4
  | .readBits _ => 0x2#4
  | .skipBits => 0x3#4
  | .readUe => 0x4#4
  | .readSe => 0x5#4
  | .bitsLeft => 0x6#4
  | .snap => 0x7#4
  | .restore => 0x8#4

/-- R61: the field `N` of each command's word. -/
def widthCode : Instr → BitVec 6
  | .init => 0
  | .readBits n => n
  | .skipBits => 0
  | .readUe => 0
  | .readSe => 0
  | .bitsLeft => 0
  | .snap => 0
  | .restore => 0

/-- R61: the command word of an instruction, `OP` then `RSV = 0` then `N`. -/
def encode (i : Instr) : CmdWord := opCode i ++ 0#22 ++ widthCode i

/-- The `mask` of the instruction's row of opcode_table.json. -/
def rowMask : Instr → CmdWord
  | .init => 0xFFFFFFFF#32
  | .readBits _ => 0xFFFFFFC0#32
  | .skipBits => 0xFFFFFFFF#32
  | .readUe => 0xFFFFFFFF#32
  | .readSe => 0xFFFFFFFF#32
  | .bitsLeft => 0xFFFFFFFF#32
  | .snap => 0xFFFFFFFF#32
  | .restore => 0xFFFFFFFF#32

/-- The `match` of the instruction's row of opcode_table.json. -/
def rowMatch : Instr → CmdWord
  | .init => 0x10000000#32
  | .readBits _ => 0x20000000#32
  | .skipBits => 0x30000000#32
  | .readUe => 0x40000000#32
  | .readSe => 0x50000000#32
  | .bitsLeft => 0x60000000#32
  | .snap => 0x70000000#32
  | .restore => 0x80000000#32

/-- The command word that the table's `nbits` low bits of `w` make, every bit above them 0 (`none` where the number does
not fit the 32-bit command port). -/
def tableWord? (nbits w : Nat) : Option CmdWord :=
  if w % 2 ^ nbits < 2 ^ 32 then some (BitVec.ofNat 32 (w % 2 ^ nbits)) else none

/-- The instruction the decoder reads from a word given as opcode_table.json numbers its bits. -/
def decodeTableWord (nbits w : Nat) : Option Instr :=
  match tableWord? nbits w with
  | some word =>
    match decode word with
    | .ok i => some i
    | .error _ => none
  | none => none

end Sys2Proof
end

