-- ==== Sys2Proof/Machine/Transaction.lean ====
section
/-! DEFINITION. How one input is performed, for any parameters and any dispatch of the commands. -/

namespace Sys2Proof.Machine

open Sys2Proof

variable {LEN_W ADDR_W KMAX : Nat}

/-- The oldest input happens, a command completely (R27, R60). A command is decoded from its word (R63) and performed by
`run`, or given the illegal response (R141); a host write, a broken memory and a reset do what their operations say; an
overlapped command is refused (R167); with no input the machine is idle (R150). -/
def stepBy (run : Instr → State LEN_W ADDR_W KMAX → Host.Outcome (State LEN_W ADDR_W KMAX) Fault Refusal)
    (s : State LEN_W ADDR_W KMAX) : Host.Outcome (State LEN_W ADDR_W KMAX) Fault Refusal :=
  match s.inputs with
  | [] => .next (idle s)
  | .command r :: rest =>
    match decode r.cmd with
    | .ok i => run i (accept s r rest)
    | .error _ => .next (illegalCommand (accept s r rest))
  | .overlap _ _ :: _ => .refused .overlappingCommands
  | .memWrite a b :: rest => .next (hostWrite (s.setInputs rest) a b)
  | .mapDevice a :: rest => .next (mapDevice (s.setInputs rest) a)
  | .reset :: rest => .next (externalReset (s.setInputs rest))

/-- The state in which the very next step performs the command whose word the table's numbering gives: the host issues it
first, with the operand ports as they stand (log 1). -/
def issueTableWord (s : State LEN_W ADDR_W KMAX) (nbits w : Nat) : State LEN_W ADDR_W KMAX :=
  s.setInputs (.command { s.port with cmd := BitVec.ofNat 32 (w % 2 ^ nbits) } :: s.inputs)

end Sys2Proof.Machine
end

