-- ==== Sys2Proof/Machine/Step.lean ====
section
/-! DEFINITION. One step of the machine at the default parameters. -/

namespace Sys2Proof.Machine

open Sys2Proof

/-- One step: the oldest input happens, a command completely (R27, R60). -/
def step (s : State) : Host.Outcome State Fault Refusal := stepBy exec s

/-- The state in which the very next step performs the command of this word (log 1). -/
def State.withFetchWord (s : State) (nbits w : Nat) : State := issueTableWord s nbits w

end Sys2Proof.Machine
end

