-- ==== Sys2Proof/Machine/Parameters.lean ====
section
/-! DEFINITION. BREG as a machine of its parameters `LEN_W`, `ADDR_W` and `KMAX` (R4, R6, R7; I11). Machine/Dispatch.lean
and Machine/Step.lean are this machine at the defaults (`bregAt_default` of Sys2Proof/Laws/Step.lean). -/

namespace Sys2Proof.Machine

open Sys2Proof

variable {LEN_W ADDR_W KMAX : Nat}

/-- The meaning of an instruction, at any parameters: the meanings that `exec` calls at the defaults. -/
def execAt (i : Instr) (s : State LEN_W ADDR_W KMAX) : Host.Outcome (State LEN_W ADDR_W KMAX) Fault Refusal :=
  match i with
  | .init => execInit s
  | .readBits n => execReadBits n s
  | .skipBits => execSkipBits s
  | .readUe => execReadUe s
  | .readSe => execReadSe s
  | .bitsLeft => execBitsLeft s
  | .snap => execSnap s
  | .restore => execRestore s

/-- One step, at any parameters. -/
def stepAt (s : State LEN_W ADDR_W KMAX) : Host.Outcome (State LEN_W ADDR_W KMAX) Fault Refusal := stepBy execAt s

/-- BREG at the given parameters. -/
def bregAt (LEN_W ADDR_W KMAX : Nat) : Host.Core :=
  { State := State LEN_W ADDR_W KMAX
    Fault := Fault
    Refusal := Refusal
    step := stepAt
    reset := State.resetAt LEN_W ADDR_W KMAX }

end Sys2Proof.Machine
end

