-- ==== Sys2Proof/Machine/Instances.lean ====
section
/-! DEFINITION. Several instances of BREG over one memory (R149): a list of machines, each of its own, the memory the same
(log 13). -/

namespace Sys2Proof.Machine

open Sys2Proof

variable {LEN_W ADDR_W KMAX : Nat}

/-- `n` instances after their resets, each with a number of its own (R149: no start-up protocol "beyond each instance's own
reset"; log 13). -/
def resetUnits (LEN_W ADDR_W KMAX n : Nat) : List (State LEN_W ADDR_W KMAX) :=
  (List.range n).map fun k => (State.resetAt LEN_W ADDR_W KMAX).setUnitNo k

/-- R149: a command to instance `n`. Only that instance steps. -/
def commandTo (us : List (State LEN_W ADDR_W KMAX)) (n : Nat) (r : Request LEN_W ADDR_W) :
    List (State LEN_W ADDR_W KMAX) :=
  us.modify n fun u =>
    match stepAt (u.setInputs (.command r :: u.inputs)) with
    | .next t => t
    | .fault _ => u
    | .refused _ => u

/-- The host writes the memory that all instances read; each whose buffer holds the byte is disturbed (R49). -/
def writeShared (us : List (State LEN_W ADDR_W KMAX)) (a : Addr ADDR_W) (b : Byte) : List (State LEN_W ADDR_W KMAX) :=
  us.map fun u => hostWrite u a b

/-- All instances read the same memory; that a byte is no idempotent memory holds for all of them (log 13). -/
abbrev OneMemory (us : List (State LEN_W ADDR_W KMAX)) : Prop :=
  ∀ u ∈ us, ∀ v ∈ us, u.mem = v.mem ∧ u.devices = v.devices

/-- No two instances have the same number, so that no free value of one is a free value of another (R49: "independently for
each read"; log 13). -/
abbrev OwnNumbers (us : List (State LEN_W ADDR_W KMAX)) : Prop := (us.map fun u => u.unitNo).Nodup

end Sys2Proof.Machine
end

