-- ==== Sys2Proof/Machine/Assembly.lean ====
section
/-! DEFINITION. The spec's assembler (R73): one command a line, as syntax, as the transaction it issues, and as text. -/

namespace Sys2Proof.Machine

open Sys2Proof

variable {LEN_W ADDR_W : Nat}

/-- R73: a line's command with its operands. -/
inductive AsmCmd (LEN_W : Nat := 32) (ADDR_W : Nat := 64) where
  | init (base : Addr ADDR_W) (len : BitLen LEN_W)
  | readBits (n : BitVec 6)
  | skipBits (count : BitLen LEN_W)
  | readUe
  | readSe
  | bitsLeft
  | snap
  | restore
  /-- `.word`: issue a raw command word, used to show illegal words. -/
  | word (w : CmdWord)
  deriving DecidableEq, Repr

/-- R73: a line, with the name it gives the command's `RESULT` where it carries one. -/
structure AsmLine (LEN_W : Nat := 32) (ADDR_W : Nat := 64) where
  name : Option (List Char)
  cmd : AsmCmd LEN_W ADDR_W
  deriving DecidableEq, Repr

/-- R73: the transaction a line issues. An operand port the command does not use is ignored (R60) and is 0 here
(log 11). -/
def AsmCmd.request : AsmCmd LEN_W ADDR_W → Request LEN_W ADDR_W
  | .init base len => { cmd := encode .init, argA := base, argB := len }
  | .readBits n => { cmd := encode (.readBits n), argA := 0, argB := 0 }
  | .skipBits count => { cmd := encode .skipBits, argA := 0, argB := count }
  | .readUe => { cmd := encode .readUe, argA := 0, argB := 0 }
  | .readSe => { cmd := encode .readSe, argA := 0, argB := 0 }
  | .bitsLeft => { cmd := encode .bitsLeft, argA := 0, argB := 0 }
  | .snap => { cmd := encode .snap, argA := 0, argB := 0 }
  | .restore => { cmd := encode .restore, argA := 0, argB := 0 }
  | .word w => { cmd := w, argA := 0, argB := 0 }

/-- R73: the line that issues a transaction whose word is legal, `.word` for an illegal word. -/
def Request.disassemble (r : Request LEN_W ADDR_W) : AsmCmd LEN_W ADDR_W :=
  match decode r.cmd with
  | .ok .init => .init r.argA r.argB
  | .ok (.readBits n) => .readBits n
  | .ok .skipBits => .skipBits r.argB
  | .ok .readUe => .readUe
  | .ok .readSe => .readSe
  | .ok .bitsLeft => .bitsLeft
  | .ok .snap => .snap
  | .ok .restore => .restore
  | .error _ => .word r.cmd

/-! ### Text -/

/-- A finished word put before the tokens that follow it; the word is held reversed. -/
def flushToken (cur : List Char) (tokens : List (List Char)) : List (List Char) :=
  if cur = [] then tokens else cur.reverse :: tokens

/-- R73: the tokens of a line: words separated by blanks, `,` and `=` on their own, a `;` ends them. -/
def tokenize : List Char → List Char → List (List Char)
  | [], cur => flushToken cur []
  | c :: cs, cur =>
    if c = ';' then flushToken cur []
    else if c = ' ' ∨ c = '\t' then flushToken cur (tokenize cs [])
    else if c = ',' ∨ c = '=' then flushToken cur ([c] :: tokenize cs [])
    else tokenize cs (c :: cur)

/-- The value of a digit in a base of at most 16. -/
def digit? (radix : Nat) (c : Char) : Option Nat :=
  let v :=
    if '0' ≤ c ∧ c ≤ '9' then c.toNat - '0'.toNat
    else if 'a' ≤ c ∧ c ≤ 'f' then c.toNat - 'a'.toNat + 10
    else if 'A' ≤ c ∧ c ≤ 'F' then c.toNat - 'A'.toNat + 10
    else radix
  if v < radix then some v else none

/-- The value of a string of digits, given the value of those before it. -/
def digits? (radix : Nat) : List Char → Nat → Option Nat
  | [], acc => some acc
  | c :: cs, acc => (digit? radix c).bind fun d => digits? radix cs (acc * radix + d)

/-- R73: "Numbers are decimal or `0x`-prefixed hexadecimal"; one above `bound` is no operand of the port or field. -/
def number? (bound : Nat) : List Char → Option Nat
  | [] => none
  | '0' :: 'x' :: c :: cs => (digits? 16 (c :: cs) 0).filter (· ≤ bound)
  | c :: cs => (digits? 10 (c :: cs) 0).filter (· ≤ bound)

/-- R73: the command of a line's tokens, `none` where they are no line of the syntax. -/
def command? : List (List Char) → Option (AsmCmd LEN_W ADDR_W)
  | [m] =>
    if m = "READ_UE".toList then some .readUe
    else if m = "READ_SE".toList then some .readSe
    else if m = "BITS_LEFT".toList then some .bitsLeft
    else if m = "SNAP".toList then some .snap
    else if m = "RESTORE".toList then some .restore
    else none
  | [m, x] =>
    if m = "READ_BITS".toList then (number? Config.NMAX x).map fun n => .readBits (BitVec.ofNat 6 n)
    else if m = "SKIP_BITS".toList then (number? (2 ^ LEN_W - 1) x).map fun n => .skipBits (BitVec.ofNat LEN_W n)
    else if m = ".word".toList then (number? (2 ^ 32 - 1) x).map fun n => .word (BitVec.ofNat 32 n)
    else none
  | [m, x, comma, y] =>
    if m = "INIT".toList ∧ comma = [','] then
      (number? (2 ^ ADDR_W - 1) x).bind fun base =>
        (number? (2 ^ LEN_W - 1) y).map fun len => .init (BitVec.ofNat ADDR_W base) (BitVec.ofNat LEN_W len)
    else none
  | _ => none

/-- R73: a line of tokens, with or without a result name. -/
def asmLine? : List (List Char) → Option (AsmLine LEN_W ADDR_W)
  | name :: ['='] :: rest => (command? rest).map fun c => { name := some name, cmd := c }
  | tokens => (command? tokens).map fun c => { name := none, cmd := c }

/-- R73: the line a text holds, `none` where it holds none (a comment, a blank line, or no line of the syntax). R73 names no
labels, and the lines of R74 are no commands: `parseListing` of Machine/Listing.lean takes both (log 11). -/
def parseLine (text : String) : Option AsmLine := asmLine? (tokenize text.toList [])

end Sys2Proof.Machine
end

