-- ==== Sys2Proof/Machine/Pseudo.lean ====
section
/-! DEFINITION. The pseudo-instructions of R74: each is a program of the host, commands with host arithmetic on their
responses between them (R27). The value of one that computes none is 0, and what one does outside the range R74 gives it is
the model's choice (log 16). -/

namespace Sys2Proof.Machine

open Sys2Proof

variable {LEN_W ADDR_W KMAX : Nat}

/-- A program of the host: it ends with a value, or issues a command and goes on with its response. -/
inductive HostProg (LEN_W : Nat := 32) (ADDR_W : Nat := 64) where
  | done (v : Int)
  | issue (c : AsmCmd LEN_W ADDR_W) (next : Response → HostProg LEN_W ADDR_W)

/-- The step that performs one transaction, whatever the host does later. -/
def transact (c : AsmCmd LEN_W ADDR_W) (s : State LEN_W ADDR_W KMAX) :
    Host.Outcome (State LEN_W ADDR_W KMAX) Fault Refusal :=
  stepAt (s.setInputs (.command c.request :: s.inputs))

/-- Runs a host program: its value and the machine after it; `none` where a step stops or gives no response. -/
def HostProg.run : HostProg LEN_W ADDR_W → State LEN_W ADDR_W KMAX → Option (Int × State LEN_W ADDR_W KMAX)
  | .done v, s => some (v, s)
  | .issue c k, s =>
    match transact c s with
    | .next t =>
      match t.response with
      | some r => HostProg.run (k r) t
      | none => none
    | .fault _ => none
    | .refused _ => none

/-- R74: `READ_FLAG` is `READ_BITS 1`. -/
def readFlag : HostProg LEN_W ADDR_W := .issue (.readBits 1) fun r => .done r.result.toNat

/-- R74: `SKIP_BYTES m` is `SKIP_BITS 8*m`, for `8*m ≤ 2^LEN_W − 1`. Beyond that R74 gives no expansion; the model issues
`SKIP_BITS` of `8*m` modulo `2^LEN_W` (DESIGN CHOICE, unsafe; log 16). -/
def skipBytes (m : Nat) : HostProg LEN_W ADDR_W := .issue (.skipBits (BitVec.ofNat LEN_W (8 * m))) fun _ => .done 0

/-- R74: `GET_POS`: `LEN − BITS_LEFT`, for the `LEN` the host gave `INIT`. -/
def getPos (len : BitLen LEN_W) : HostProg LEN_W ADDR_W := .issue .bitsLeft fun r => .done (len.toNat - r.result.toInt)

/-- R74: `SKIP_TO q`: skip `d = q − (LEN − b)` bits, for `0 ≤ d ≤ 2^LEN_W − 1`. Outside that range (a `q` behind the cursor,
or too far ahead) R74 gives no expansion; the model issues `SKIP_BITS` of `d` modulo `2^LEN_W` (DESIGN CHOICE, unsafe;
log 16). -/
def skipTo (len : BitLen LEN_W) (q : Nat) : HostProg LEN_W ADDR_W :=
  .issue .bitsLeft fun r =>
    .issue (.skipBits (BitVec.ofInt LEN_W (q - (len.toNat - r.result.toInt)))) fun _ => .done 0

/-- R74: `SEEK p`: the session's own `INIT`, then `SKIP_BITS p`. -/
def seek (base : Addr ADDR_W) (len : BitLen LEN_W) (p : BitLen LEN_W) : HostProg LEN_W ADDR_W :=
  .issue (.init base len) fun _ => .issue (.skipBits p) fun _ => .done 0

/-- R74: `READ_LONG n`, for `33 ≤ n ≤ 64`: two reads and `hi * 2^(n−32) + lo`. For another `n` R74 gives no expansion; the
model issues the same two reads, the second of width `n − 32` (0 where `n` is smaller) modulo 64 (DESIGN CHOICE, unsafe;
log 16). -/
def readLong (n : Nat) : HostProg LEN_W ADDR_W :=
  .issue (.readBits 32) fun hi =>
    .issue (.readBits (BitVec.ofNat 6 (n - 32))) fun lo =>
      .done (hi.result.toNat * 2 ^ (n - 32) + lo.result.toNat)

/-- R74: `UE_PLUS c`: the addition is the host's. -/
def uePlus (c : Int) : HostProg LEN_W ADDR_W := .issue .readUe fun r => .done (r.result.toNat + c)

end Sys2Proof.Machine
end

