-- ==== Sys2Proof/Machine/Listing.lean ====
section
/-! DEFINITION. The lines of the listings of 95_test_vectors.md: those of R73, those of R74, either with a label. The spec
uses labels and pseudo-instruction lines there (program P3) and gives their syntax nowhere: the choices are the model's
(log 11). -/

namespace Sys2Proof.Machine

open Sys2Proof

variable {LEN_W ADDR_W : Nat}

/-- R74: a pseudo-instruction with its operand. -/
inductive PseudoInstr (LEN_W : Nat := 32) where
  | readFlag
  | skipBytes (m : Nat)
  | getPos
  | skipTo (q : Nat)
  | seek (p : BitLen LEN_W)
  | readLong (n : Nat)
  | uePlus (c : Nat)
  deriving DecidableEq, Repr

/-- R74: the host program a pseudo-instruction expands to, in a session with these `INIT` operands. -/
def PseudoInstr.expand (base : Addr ADDR_W) (len : BitLen LEN_W) : PseudoInstr LEN_W → HostProg LEN_W ADDR_W
  | .readFlag => Sys2Proof.Machine.readFlag
  | .skipBytes m => Sys2Proof.Machine.skipBytes m
  | .getPos => Sys2Proof.Machine.getPos len
  | .skipTo q => Sys2Proof.Machine.skipTo len q
  | .seek p => Sys2Proof.Machine.seek base len p
  | .readLong n => Sys2Proof.Machine.readLong n
  | .uePlus c => Sys2Proof.Machine.uePlus c

/-- What a line issues: a command (R73) or a pseudo-instruction (R74). -/
inductive LineBody (LEN_W : Nat := 32) (ADDR_W : Nat := 64) where
  | command (c : AsmCmd LEN_W ADDR_W)
  | pseudo (p : PseudoInstr LEN_W)
  deriving DecidableEq, Repr

/-- A line of a listing. -/
structure ListingLine (LEN_W : Nat := 32) (ADDR_W : Nat := 64) where
  label : Option (List Char)
  name : Option (List Char)
  body : LineBody LEN_W ADDR_W
  deriving DecidableEq, Repr

/-- The pseudo-instruction of a line's tokens. The operands of `SKIP_BYTES`, `SEEK` and `READ_LONG` are within the ranges R74
gives; that of `SKIP_TO`, where R74 bounds `d`, is at most the largest position some cursor reaches with such a `d` (log 11).
DESIGN CHOICE: the constant of `UE_PLUS`, to which R74 gives no range and which no port carries, is a number of R73 (so it has
no sign) of at most `2^LEN_W − 1`; a line with another is no line of a listing (log 11). `uePlus` itself takes every
integer. -/
def pseudo? : List (List Char) → Option (PseudoInstr LEN_W)
  | [m] =>
    if m = "READ_FLAG".toList then some .readFlag
    else if m = "GET_POS".toList then some .getPos
    else none
  | [m, x] =>
    if m = "SKIP_BYTES".toList then (number? ((2 ^ LEN_W - 1) / 8) x).map .skipBytes
    else if m = "SKIP_TO".toList then (number? (Config.POS_MAX LEN_W + (2 ^ LEN_W - 1)) x).map .skipTo
    else if m = "SEEK".toList then (number? (2 ^ LEN_W - 1) x).map fun p => .seek (BitVec.ofNat LEN_W p)
    else if m = "READ_LONG".toList then ((number? 64 x).filter (33 ≤ ·)).map .readLong
    else if m = "UE_PLUS".toList then (number? (2 ^ LEN_W - 1) x).map .uePlus
    else none
  | _ => none

/-- What a line's tokens issue. -/
def lineBody? (tokens : List (List Char)) : Option (LineBody LEN_W ADDR_W) :=
  match command? tokens with
  | some c => some (.command c)
  | none => (pseudo? tokens).map .pseudo

/-- A line's tokens without a label. -/
def namedLine? (label : Option (List Char)) : List (List Char) → Option (ListingLine LEN_W ADDR_W)
  | name :: ['='] :: rest => (lineBody? rest).map fun b => { label := label, name := some name, body := b }
  | tokens => (lineBody? tokens).map fun b => { label := label, name := none, body := b }

/-- The label a token is: a word that ends with a colon. -/
def label? (token : List Char) : Option (List Char) :=
  match token.reverse with
  | ':' :: c :: cs => some (c :: cs).reverse
  | _ => none

/-- A line of tokens, with or without a label. -/
def listingLine? : List (List Char) → Option (ListingLine LEN_W ADDR_W)
  | [] => none
  | token :: rest =>
    match label? token with
    | some l => namedLine? (some l) rest
    | none => namedLine? none (token :: rest)

/-- The line of a listing that a text holds, `none` where it holds none. -/
def parseListing (text : String) : Option ListingLine := listingLine? (tokenize text.toList [])

/-- What a line issues, as a program of the host whose value is the line's result: the `RESULT` of a command, as an unsigned
number, or the value its pseudo-instruction computes. -/
def LineBody.prog (base : Addr ADDR_W) (len : BitLen LEN_W) : LineBody LEN_W ADDR_W → HostProg LEN_W ADDR_W
  | .command c => .issue c fun r => .done r.result.toNat
  | .pseudo p => p.expand base len

end Sys2Proof.Machine
end

