-- ==== Sys2Proof/Safety.lean ====
section
/-! DEFINITION. The words claims are stated in: the overread (R142), the invariant (R31, R144), the host's duties (R49,
R151, R162), and which inputs end an overread or move the snapshot. -/

namespace Sys2Proof.Machine

open Sys2Proof

variable {LEN_W ADDR_W KMAX : Nat}

/-- R142: the overread state, `POS > LEN`. -/
abbrev Overread (s : State LEN_W ADDR_W KMAX) : Prop := s.len.toNat < s.pos.toNat

/-- R29, R141, R144: what holds of the last response in the state it left. -/
abbrev ResponseConsistent (s : State) (r : Response) : Prop :=
  (r.neg = true ↔ Overread s) ∧ (r.uef = true → r.neg = true) ∧ (r.ill = true → r.uef = false ∧ r.result = 0)

/-- The invariant every step keeps: `SNAP ≤ POS` (R31; the other bounds of R31 are the registers' types), the canonical
forms, disturbed bytes only in the buffer (R49), and a response consistent with the registers. -/
abbrev MachineInv (s : State) : Prop :=
  s.snap.toNat ≤ s.pos.toNat
    ∧ s.mem.wf
    ∧ addrsWf s.devices
    ∧ addrsWf s.disturbed
    ∧ (∀ a ∈ s.disturbed, inBuffer s (BitVec.ofNat 64 a) = true)
    ∧ ∀ r ∈ s.response, ResponseConsistent s r

/-- R47, R49: the host has kept its duty in this session: no byte of the buffer is unstable. -/
abbrev Undisturbed (s : State LEN_W ADDR_W KMAX) : Prop :=
  ∀ a ∈ s.devices ++ s.disturbed, inBuffer s (BitVec.ofNat ADDR_W a) = false

/-- R162 step 3: the buffer does not cross the top of the address space. -/
abbrev BufferFits (base : Addr ADDR_W) (len : BitLen LEN_W) : Prop := base.toNat + (len.toNat + 7) / 8 ≤ 2 ^ ADDR_W

/-- R151: the host may accept a parse whose last response shows no overread. -/
abbrev Acceptable (r : Response) : Prop := r.neg = false

/-- `k` steps of the machine, stopping at the first refusal. -/
abbrev run (k : Nat) (s : State) : Host.Outcome State Fault Refusal := core.run k s

/-- R40: no byte of memory differs, as the memory port reads it. -/
abbrev KeepsMemory (s t : State) : Prop := ∀ a : Addr, memRead t a = memRead s a

/-- The command reads no memory: over any memory it does the same (R44, R46). -/
abbrev IgnoresMemory (i : Instr) (s : State) : Prop :=
  ∀ t, exec i s = .next t → ∀ m : Memory, exec i (s.setMem m) = .next (t.setMem m)

/-- R101, R83: how many stream positions, from the cursor on, a command can examine. -/
def window : Instr → Nat
  | .init => 0
  | .readBits n => n.toNat
  | .skipBits => 0
  | .readUe => 2 * Config.KMAX + 1
  | .readSe => 2 * Config.KMAX + 1
  | .bitsLeft => 0
  | .snap => 0
  | .restore => 0

/-- The instruction an input runs, `none` for an illegal word and for an input that is no command. -/
def Input.instr? : Input → Option Instr
  | .command r =>
    match decode r.cmd with
    | .ok i => some i
    | .error _ => none
  | .overlap _ _ => none
  | .memWrite _ _ => none
  | .mapDevice _ => none
  | .reset => none

/-- R31: only these can end an overread: `INIT`, `RESTORE`, reset. -/
abbrev Input.endsOverread (x : Input) : Prop :=
  x = .reset ∨ x.instr? = some .init ∨ x.instr? = some .restore

/-- R25: only these write the snapshot: `INIT`, `SNAP`, reset. -/
abbrev Input.writesSnap (x : Input) : Prop :=
  x = .reset ∨ x.instr? = some .init ∨ x.instr? = some .snap

/-- The command uses `ARG_A` (R60: "used by `INIT` only"). -/
def usesArgA : Instr → Bool
  | .init => true
  | .readBits _ => false
  | .skipBits => false
  | .readUe => false
  | .readSe => false
  | .bitsLeft => false
  | .snap => false
  | .restore => false

/-- The command uses `ARG_B` (R60: `INIT` and `SKIP_BITS`). -/
def usesArgB : Instr → Bool
  | .init => true
  | .readBits _ => false
  | .skipBits => true
  | .readUe => false
  | .readSe => false
  | .bitsLeft => false
  | .snap => false
  | .restore => false

/-- The command reads stream bits (R46: the others "read no memory"). -/
def readsStream : Instr → Bool
  | .init => false
  | .readBits _ => true
  | .skipBits => false
  | .readUe => true
  | .readSe => true
  | .bitsLeft => false
  | .snap => false
  | .restore => false

end Sys2Proof.Machine
end

