-- ==== Sys2Proof/Certificates/Slice0/Obligations.lean ====
section
/-! DEFINITION. The statements about BREG, for the provers. Each docstring names the rule of spec/ it formalises; where a
clause rests on the model's own choice or on an inference the spec marks as its own, it says so. -/

open Sys2Proof Sys2Proof.Machine

/-! ### Reset -/

/-- R30. -/
def Obligations.ResetLeavesAnEmptySession : Prop :=
  State.reset.base = 0 ∧ State.reset.len = 0 ∧ State.reset.pos = 0 ∧ State.reset.snap = 0
    ∧ bitsLeft State.reset = 0 ∧ negFlag State.reset = false
    ∧ ∀ p, State.reset.len.toNat ≤ p ∧ streamBit State.reset p = Config.FILL

/-- R160 (its register and memory sentences), in every state, not only at power-up. The rest is the model's: no response is
held (log 2), no byte counts as disturbed (log 5), the device set stays (log 6), the index of the free values stays (log 7),
the ports, the instance's number and the inputs still to come stay (log 3, 13, 1). -/
def Obligations.ResetInputClearsTheRegistersAndKeepsMemory : Prop :=
  ∀ (s : State) rest, s.inputs = .reset :: rest →
    ∃ t, step s = .next t ∧ t.base = 0 ∧ t.len = 0 ∧ t.pos = 0 ∧ t.snap = 0 ∧ KeepsMemory s t
      ∧ t.mem = s.mem ∧ t.devices = s.devices ∧ t.disturbed = [] ∧ t.draws = s.draws ∧ t.response = none
      ∧ t.port = s.port ∧ t.unitNo = s.unitNo ∧ t.inputs = rest

/-- R161 (derived by the spec from R30, R43): before the first `INIT`, over any memory. -/
def Obligations.CommandsBeforeInitSeeAnEmptyBuffer : Prop :=
  ∀ (m : Memory) (n : BitVec 6), n.toNat ≤ 32 →
    (∃ t r, exec (.readBits n) (State.reset.setMem m) = .next t ∧ t.response = some r
        ∧ r.result = 0 ∧ bitsLeft t = -(n.toNat : Int))
    ∧ (∃ t r, exec .readUe (State.reset.setMem m) = .next t ∧ t.response = some r
        ∧ r.result = 0xFFFFFFFF#64 ∧ r.uef = true ∧ bitsLeft t = -1)
    ∧ (∃ t r, exec .bitsLeft (State.reset.setMem m) = .next t ∧ t.response = some r ∧ r.result = 0 ∧ r.neg = false)

/-- The invariant holds at reset, the companion of `EveryStepKeepsTheInvariant`. `SNAP ≤ POS` there is R30 and R31; that
memory, the two address sets and the response meet their parts rests on the model's own reset values (log 2, 4, 5, 6). -/
def Obligations.ResetMeetsTheInvariant : Prop := MachineInv State.reset

/-! ### Encoding -/

/-- Words of the opcode map (R62) written out bit by bit, and illegal ones (R62, R63). -/
def Obligations.WordsOfTheOpcodeMapDecode : Prop :=
  decode 0b00010000000000000000000000000000#32 = .ok .init
    ∧ decode 0b00100000000000000000000000000000#32 = .ok (.readBits 0)
    ∧ decode 0b00100000000000000000000000100000#32 = .ok (.readBits 32)
    ∧ decode 0b00110000000000000000000000000000#32 = .ok .skipBits
    ∧ decode 0b01000000000000000000000000000000#32 = .ok .readUe
    ∧ decode 0b01010000000000000000000000000000#32 = .ok .readSe
    ∧ decode 0b01100000000000000000000000000000#32 = .ok .bitsLeft
    ∧ decode 0b01110000000000000000000000000000#32 = .ok .snap
    ∧ decode 0b10000000000000000000000000000000#32 = .ok .restore
    ∧ decode 0x00000000#32 = .error .unassignedOp
    ∧ decode 0x90000000#32 = .error .unassignedOp
    ∧ decode 0x20000021#32 = .error .widthTooLarge
    ∧ decode 0x20000040#32 = .error .reservedBits
    ∧ decode 0x40000001#32 = .error .strayWidth

/-- R63, its formula over the numbers of the fields of R61: exactly the legal words decode. -/
def Obligations.ExactlyTheLegalWordsDecode : Prop :=
  ∀ w : CmdWord, (∃ i, decode w = .ok i) ↔
    (1 ≤ w.toNat / 2 ^ 28 ∧ w.toNat / 2 ^ 28 ≤ 8) ∧ w.toNat / 2 ^ 6 % 2 ^ 22 = 0
      ∧ (if w.toNat / 2 ^ 28 = 2 then w.toNat % 2 ^ 6 ≤ 32 else w.toNat % 2 ^ 6 = 0)

/-- Decode and encode agree (R61, R62): every well-formed instruction, the width at every value it admits. -/
def Obligations.DecodeOfEncodeIsTheInstruction : Prop := ∀ i : Instr, i.wellFormed = true → decode (encode i) = .ok i

/-- The other direction (R68): a legal word has one meaning, and that meaning one word. -/
def Obligations.EncodeOfDecodeIsTheWord : Prop :=
  ∀ (w : CmdWord) (i : Instr), decode w = .ok i → encode i = w ∧ i.wellFormed = true

/-- The decoder against the `mask` and `match` of opcode_table.json and the constraint of its `READ_BITS` row. -/
def Obligations.DecoderAgreesWithTheOpcodeTable : Prop :=
  ∀ (w : CmdWord) (i : Instr), decode w = .ok i ↔
    w &&& rowMask i = rowMatch i ∧ ∀ n, i = .readBits n → n.toNat = w.toNat % 64 ∧ n.toNat ≤ 32

/-- R3: the bound on a width: `NMAX` is 32, and no wider `READ_BITS` is legal. -/
def Obligations.ReadBitsWiderThanThirtyTwoIsIllegal : Prop :=
  Config.NMAX = 32 ∧ ∀ (n : BitVec 6), 32 < n.toNat →
    legal (encode (.readBits n)) = false ∧ (∃ e, decode (encode (.readBits n)) = .error e)
      ∧ ∀ (s : State) r rest, r.cmd = encode (.readBits n) → s.inputs = .command r :: rest →
        ∃ t q, step s = .next t ∧ t.response = some q ∧ q.ill = true ∧ t.pos = s.pos

/-- R66. -/
def Obligations.StatusPortLayout : Prop :=
  ∀ (r : Response) (ill neg uef : Bool), r.st = statusWord ill neg uef →
    r.st.getLsbD 0 = ill ∧ r.st.getLsbD 1 = neg ∧ r.st.getLsbD 2 = uef
      ∧ r.ill = ill ∧ r.neg = neg ∧ r.uef = uef

/-! ### The step -/

/-- R27, R60: a step performs the decoded command, with the transaction's words on the ports and the later inputs still
to come (log 1). At the default parameters the machine of the parameters is this machine (I11). -/
def Obligations.StepRunsTheDecodedCommand : Prop :=
  ∀ (s : State) r rest i, s.inputs = .command r :: rest → decode r.cmd = .ok i →
    step s = exec i ((s.setPort r).setInputs rest) ∧ stepAt s = step s

/-- R141, R67: the response to every illegal word, whatever the operands. -/
def Obligations.IllegalWordChangesNoRegister : Prop :=
  ∀ (s : State) r rest, s.inputs = .command r :: rest → legal r.cmd = false →
    ∃ t q, step s = .next t ∧ t.base = s.base ∧ t.len = s.len ∧ t.pos = s.pos ∧ t.snap = s.snap
      ∧ KeepsMemory s t
      ∧ t.response = some q ∧ q.result = 0 ∧ q.ill = true ∧ q.uef = false ∧ (q.neg = true ↔ s.len.toNat < s.pos.toNat)
      ∧ (∀ m, step (s.setMem m) = .next (t.setMem m))
      ∧ (∀ r', legal r'.cmd = false → ∃ t', step (s.setInputs (.command r' :: rest)) = .next t' ∧ t'.response = t.response)
      ∧ ∀ i, ∃ v, exec i t = .next v

/-- R150 with log 1: without an input the machine is idle. -/
def Obligations.IdleHoldsTheState : Prop := ∀ s : State, s.inputs = [] → step s = .next s

/-- R12, R140, R145: no condition stops the machine; R167, I9: an overlapped command is refused (log 8). -/
def Obligations.StepStopsOnlyOnOverlappingCommands : Prop :=
  ∀ s : State, (∃ t, step s = .next t) ∨
    ((∃ a b rest, s.inputs = .overlap a b :: rest) ∧ step s = .refused .overlappingCommands)

/-- A memory write of the host (R49, R50): the byte is in memory, every other byte and every register is as it was. The rest
is the model's: which bytes count as disturbed (log 5), the device set stays, so a device's bits stay free (log 6), the
response stays (log 2), the index of the free values stays (log 7), so does the instance's number (log 13), the later inputs
are still to come (log 1). -/
def Obligations.HostWriteChangesOneByte : Prop :=
  ∀ (s : State) a b rest, s.mem.wf → s.inputs = .memWrite a b :: rest →
    ∃ t, step s = .next t ∧ memRead t a = b ∧ (∀ x, x ≠ a → memRead t x = memRead s x)
      ∧ t.base = s.base ∧ t.len = s.len ∧ t.pos = s.pos ∧ t.snap = s.snap ∧ t.response = s.response
      ∧ t.devices = s.devices ∧ t.draws = s.draws ∧ t.unitNo = s.unitNo ∧ t.inputs = rest
      ∧ ∀ x, x ∈ t.disturbed ↔ x ∈ s.disturbed ∨ (x = a.toNat ∧ inBuffer s a = true)

/-- R49, I6, R165: after a host write during the session each bit of that byte is a free value, indexed by the instance, the
reading command and the stream position (log 5, 7, 13). The same of a byte that is no idempotent memory (R47, log 6). That a
byte turns out so changes no register and no byte of memory ("no other state is affected"); that it keeps the disturbed set,
the response, the index of the free values, the instance's number and the later inputs is the model's (log 5, 2, 7, 13, 1). -/
def Obligations.BitsOfAnUnstableByteAreFree : Prop :=
  (∀ (s t : State) a p, (∃ b rest, s.inputs = .memWrite a b :: rest) ∨ (∃ rest, s.inputs = .mapDevice a :: rest) →
    step s = .next t → p < s.len.toNat → byteAddr s p = a → streamBit t p = Config.freeBit s.unitNo s.draws p) ∧
  ∀ (s : State) a rest, s.inputs = .mapDevice a :: rest →
    ∃ t, step s = .next t ∧ t.base = s.base ∧ t.len = s.len ∧ t.pos = s.pos ∧ t.snap = s.snap ∧ KeepsMemory s t
      ∧ t.mem = s.mem ∧ (∀ x, x ∈ t.devices ↔ x ∈ s.devices ∨ x = a.toNat)
      ∧ t.disturbed = s.disturbed ∧ t.response = s.response ∧ t.draws = s.draws ∧ t.unitNo = s.unitNo
      ∧ t.inputs = rest

/-- R52, R50 (derived by the spec): what the host wrote is what the next session reads. -/
def Obligations.HostWriteIsSeenByTheNextSession : Prop :=
  ∀ (s : State) a b r rest p, s.mem.wf → a.toNat ∉ s.devices → s.inputs = .memWrite a b :: .command r :: rest →
    decode r.cmd = .ok .init →
    ∃ t, run 2 s = .next t ∧
      (p < t.len.toNat → byteAddr t p = a → streamBit t p = b.getLsbD (7 - p % 8))

/-! ### The stream -/

/-- R42, R43, R45, at any parameters: a position whose byte is stable reads that byte's bit, whatever else the host has
disturbed (R49: only the bits from the written byte are unconstrained); no address wraps where the host keeps R162 step 3.
The bit order rests on general knowledge that the spec marks as such (G1, R41). -/
def Obligations.StreamBitIsTheBitOfItsByte : Prop :=
  ∀ (LEN_W ADDR_W KMAX : Nat) (s : State LEN_W ADDR_W KMAX) p, (s.len.toNat ≤ p → streamBit s p = false) ∧
    (p < s.len.toNat →
      (byteAddr s p).toNat = (s.base.toNat + p / 8) % 2 ^ ADDR_W
        ∧ (BufferFits s.base s.len → (byteAddr s p).toNat = s.base.toNat + p / 8)
        ∧ (unstable s (byteAddr s p) = false → streamBit s p = (memRead s (byteAddr s p)).getLsbD (7 - p % 8)))

/-- R54 (its decision is D5): the value as a sum, the lowest stream position the most significant bit. -/
def Obligations.ReadStreamIsTheSumOfItsBits : Prop :=
  ∀ (s : State) p, (∀ n, readStream s p n = ∑ i ∈ Finset.range n, (streamBit s (p + i)).toNat * 2 ^ (n - 1 - i)
      ∧ readStream s p n < 2 ^ n)
    ∧ readStream s p 0 = 0 ∧ ∀ m, readStream (s.setMem m) p 0 = 0

/-- R56 (derived by the spec): one read equals two reads of the parts, also as two commands, when the buffer is
undisturbed (R49). -/
def Obligations.OneReadEqualsTwoReadsOfItsParts : Prop :=
  ∀ (s : State) (n n₁ n₂ : BitVec 6), n.toNat = n₁.toNat + n₂.toNat → n.toNat ≤ 32 → Undisturbed s →
    ∃ t t₁ t₂ r r₁ r₂, exec (.readBits n) s = .next t ∧ exec (.readBits n₁) s = .next t₁
      ∧ exec (.readBits n₂) t₁ = .next t₂
      ∧ t.response = some r ∧ t₁.response = some r₁ ∧ t₂.response = some r₂
      ∧ r.result.toNat = r₁.result.toNat * 2 ^ n₂.toNat + r₂.result.toNat
      ∧ t₂.pos = t.pos ∧ r₂.neg = r.neg

/-- R44, R46, R166, reads said as dependence (log 15): a command's whole outcome depends on memory only through the bytes of
the buffer positions in its window, at most 32 for `READ_BITS`, 63 for the Exp-Golomb reads, none for the others; and those
bytes are the buffer's. -/
def Obligations.CommandsReadOnlyTheirPositionsInTheBuffer : Prop :=
  (∀ (s : State) p, p < s.len.toNat → ∃ j, j < (s.len.toNat + 7) / 8 ∧ (byteAddr s p).toNat = (s.base.toNat + j) % 2 ^ 64) ∧
  ∀ (i : Instr) (s t : State) (m : Memory),
    (∀ p, s.pos.toNat ≤ p → p < s.pos.toNat + window i → p < s.len.toNat →
      m.read (byteAddr s p).toNat = s.mem.read (byteAddr s p).toNat) →
    exec i s = .next t → exec i (s.setMem m) = .next (t.setMem m)

/-- R32: no hidden state. Two machines that agree on the registers, the ports and the bytes of the buffer, neither
disturbed, respond alike and end with the same registers, whatever else they hold. -/
def Obligations.ResponsesDependOnlyOnRegistersAndBuffer : Prop :=
  ∀ (i : Instr) (s u : State), u.base = s.base → u.len = s.len → u.pos = s.pos → u.snap = s.snap → u.port = s.port →
    Undisturbed s → Undisturbed u → (∀ a, inBuffer s a = true → memRead u a = memRead s a) →
    ∃ t v, exec i s = .next t ∧ exec i u = .next v ∧ v.base = t.base ∧ v.len = t.len ∧ v.pos = t.pos ∧ v.snap = t.snap
      ∧ v.response = t.response

/-! ### The cursor -/

/-- R24, R5, at any parameters: the cursor saturates at `2^(LEN_W+1) − 1` and never wraps, and a saturated cursor reads what
the true position would: fill. -/
def Obligations.AdvanceSaturates : Prop :=
  ∀ (LEN_W ADDR_W KMAX : Nat) (s : State LEN_W ADDR_W KMAX) n,
    (advance s n).pos.toNat = min (s.pos.toNat + n) (2 ^ (LEN_W + 1) - 1)
    ∧ s.pos.toNat ≤ (advance s n).pos.toNat
    ∧ (2 ^ (LEN_W + 1) - 1 < s.pos.toNat + n → Overread (advance s n)
        ∧ ∀ m, readStream (advance s n) (advance s n).pos.toNat m = 0 ∧ readStream s (s.pos.toNat + n) m = 0)

/-- R23: only `INIT` and `RESTORE` move the cursor backward; with R131, `RESTORE` never moves it forward under the
invariant. -/
def Obligations.OnlyInitAndRestoreMoveTheCursorBack : Prop :=
  (∀ i (s t : State), exec i s = .next t → i ≠ .init → i ≠ .restore → s.pos.toNat ≤ t.pos.toNat) ∧
  ∀ s t : State, MachineInv s → exec .restore s = .next t → t.pos.toNat ≤ s.pos.toNat

/-- R21, R26, with R30 and R160 for the reset: an `INIT` writes `BASE` and `LEN` with its operands, a reset zeroes them, and
no other step changes them. -/
def Obligations.BaseAndLenChangeOnlyAtInitOrReset : Prop :=
  ∀ s t : State, step s = .next t →
    (∀ r rest, s.inputs = .command r :: rest → decode r.cmd = .ok .init → t.base = r.argA ∧ t.len = r.argB)
    ∧ (∀ rest, s.inputs = .reset :: rest → t.base = 0 ∧ t.len = 0)
    ∧ ((∀ x ∈ s.inputs.head?, x ≠ .reset ∧ x.instr? ≠ some .init) → t.base = s.base ∧ t.len = s.len)

/-! ### The commands -/

/-- R80, with its word (R62). -/
def Obligations.InitStartsASession : Prop :=
  decode 0x10000000#32 = .ok .init ∧
  ∀ s : State, ∃ t r, exec .init s = .next t
    ∧ t.base = s.port.argA ∧ t.len = s.port.argB ∧ t.pos = 0 ∧ t.snap = 0
    ∧ t.response = some r ∧ r.result = 0 ∧ r.ill = false ∧ r.uef = false ∧ r.neg = false
    ∧ KeepsMemory s t ∧ IgnoresMemory .init s

/-- R83, with its words (R61 to R63): the value, the cursor, the status, and what stays. -/
def Obligations.ReadBitsReturnsTheNextBits : Prop :=
  (∀ n : BitVec 6, n.toNat ≤ 32 → decode (0x20000000#32 ||| n.setWidth 32) = .ok (.readBits n)) ∧
  (∀ n : BitVec 6, 32 < n.toNat → ∃ e, decode (0x20000000#32 ||| n.setWidth 32) = .error e) ∧
  ∀ (s : State) (n : BitVec 6), n.toNat ≤ 32 →
    ∃ t r, exec (.readBits n) s = .next t ∧ t.response = some r
      ∧ r.result.toNat =
          ∑ i ∈ Finset.range n.toNat, (streamBit s (s.pos.toNat + i)).toNat * 2 ^ (n.toNat - 1 - i)
      ∧ t.pos.toNat = min (s.pos.toNat + n.toNat) (2 ^ 33 - 1)
      ∧ r.ill = false ∧ r.uef = false
      ∧ (r.neg = true ↔ s.len.toNat < s.pos.toNat + n.toNat)
      ∧ t.base = s.base ∧ t.len = s.len ∧ t.snap = s.snap ∧ KeepsMemory s t

/-- R84: the positions in the buffer keep their bits, the missing ones are 0, and the cursor still advances by the full
width; "read no memory" is the statement `CommandsReadOnlyTheirPositionsInTheBuffer`. -/
def Obligations.ReadBitsPastTheEndIsFilledWithZeros : Prop :=
  ∀ (s : State) (n : BitVec 6), n.toNat ≤ 32 → s.len.toNat < s.pos.toNat + n.toNat →
    ∃ t r, exec (.readBits n) s = .next t ∧ t.response = some r ∧ r.neg = true ∧ r.uef = false
      ∧ r.result.toNat =
          readStream s s.pos.toNat (s.len.toNat - s.pos.toNat)
            * 2 ^ (n.toNat - (s.len.toNat - s.pos.toNat))
      ∧ bitsLeft t = max ((s.len.toNat : Int) - (s.pos.toNat + n.toNat)) (s.len.toNat - (2 ^ 33 - 1))
      ∧ bitsLeft t < 0

/-- R85. -/
def Obligations.ReadBitsOfWidthZeroReadsNothing : Prop :=
  ∀ s : State, ∃ t r, exec (.readBits 0) s = .next t ∧ t.response = some r ∧ r.result = 0 ∧ t.pos = s.pos
    ∧ r.neg = negFlag s ∧ IgnoresMemory (.readBits 0) s

/-- R90, with its word (R62). -/
def Obligations.SkipBitsAdvancesByItsOperand : Prop :=
  decode 0x30000000#32 = .ok .skipBits ∧
  ∀ s : State, ∃ t r, exec .skipBits s = .next t ∧ t.response = some r ∧ r.result = 0 ∧ r.ill = false ∧ r.uef = false
    ∧ t.pos.toNat = min (s.pos.toNat + s.port.argB.toNat) (2 ^ 33 - 1)
    ∧ (r.neg = true ↔ s.len.toNat < s.pos.toNat + s.port.argB.toNat)
    ∧ t.base = s.base ∧ t.len = s.len ∧ t.snap = s.snap ∧ KeepsMemory s t ∧ IgnoresMemory .skipBits s

/-- R91's last example (derived by the spec from R90, R24): three largest skips over an empty buffer. -/
def Obligations.RepeatedSkipsSaturateTheCursor : Prop :=
  ∀ (s : State) base rest, s.inputs =
      .command ⟨0x10000000#32, base, 0#32⟩ :: .command ⟨0x30000000#32, 0, 0xFFFFFFFF#32⟩ ::
      .command ⟨0x30000000#32, 0, 0xFFFFFFFF#32⟩ :: .command ⟨0x30000000#32, 0, 0xFFFFFFFF#32⟩ :: rest →
    ∃ t, run 4 s = .next t ∧ t.pos.toNat = 8589934591 ∧ bitsLeft t = -8589934591

/-- R120, with its word (R62). -/
def Obligations.BitsLeftReportsLenMinusPos : Prop :=
  decode 0x60000000#32 = .ok .bitsLeft ∧
  ∀ s : State, ∃ t r, exec .bitsLeft s = .next t ∧ t.response = some r
    ∧ r.result.toInt = (s.len.toNat : Int) - s.pos.toNat
    ∧ r.ill = false ∧ r.uef = false ∧ (r.neg = true ↔ (s.len.toNat : Int) - s.pos.toNat < 0)
    ∧ t.base = s.base ∧ t.len = s.len ∧ t.pos = s.pos ∧ t.snap = s.snap ∧ KeepsMemory s t ∧ IgnoresMemory .bitsLeft s

/-- R125, with its word (R62). -/
def Obligations.SnapSavesTheCursor : Prop :=
  decode 0x70000000#32 = .ok .snap ∧
  ∀ s : State, ∃ t r, exec .snap s = .next t ∧ t.response = some r ∧ r.result = 0
    ∧ r.ill = false ∧ r.uef = false ∧ r.neg = negFlag s
    ∧ t.snap = s.pos ∧ t.base = s.base ∧ t.len = s.len ∧ t.pos = s.pos ∧ KeepsMemory s t ∧ IgnoresMemory .snap s

/-- R130, with its word (R62). -/
def Obligations.RestoreReturnsToTheSnapshot : Prop :=
  decode 0x80000000#32 = .ok .restore ∧
  ∀ s : State, ∃ t r, exec .restore s = .next t ∧ t.response = some r ∧ r.result = 0
    ∧ r.ill = false ∧ r.uef = false ∧ (r.neg = true ↔ s.len.toNat < s.snap.toNat)
    ∧ t.pos = s.snap ∧ t.snap = s.snap ∧ t.base = s.base ∧ t.len = s.len ∧ KeepsMemory s t ∧ IgnoresMemory .restore s

/-- R102, R100: `k ≤ 31` zeros and a one at the cursor. The suffix may run past the end (R103). That the one is consumed
rests on general knowledge that the spec marks as such (G2, R70). -/
def Obligations.ReadUeDecodesACodeword : Prop :=
  decode 0x40000000#32 = .ok .readUe ∧
  ∀ (s : State) k, k ≤ 31 → (∀ j < k, streamBit s (s.pos.toNat + j) = false) → streamBit s (s.pos.toNat + k) = true →
    ∃ t r, exec .readUe s = .next t ∧ t.response = some r
      ∧ r.result.toNat = 2 ^ k - 1 + readStream s (s.pos.toNat + k + 1) k
      ∧ t.pos.toNat = s.pos.toNat + 2 * k + 1
      ∧ r.ill = false ∧ r.uef = false ∧ (r.neg = true ↔ s.len.toNat < s.pos.toNat + 2 * k + 1)
      ∧ t.base = s.base ∧ t.len = s.len ∧ t.snap = s.snap ∧ KeepsMemory s t

/-- R110, R111 on a codeword as above (G2 again). -/
def Obligations.ReadSeDecodesACodeword : Prop :=
  decode 0x50000000#32 = .ok .readSe ∧
  ∀ (s : State) k, k ≤ 31 → (∀ j < k, streamBit s (s.pos.toNat + j) = false) → streamBit s (s.pos.toNat + k) = true →
    ∃ t r, exec .readSe s = .next t ∧ t.response = some r
      ∧ (∀ v, v = 2 ^ k - 1 + readStream s (s.pos.toNat + k + 1) k →
          r.result.toInt = if v % 2 = 1 then ((v : Int) + 1) / 2 else -((v : Int) / 2))
      ∧ t.pos.toNat = s.pos.toNat + 2 * k + 1
      ∧ r.ill = false ∧ r.uef = false ∧ (r.neg = true ↔ s.len.toNat < s.pos.toNat + 2 * k + 1)
      ∧ t.base = s.base ∧ t.len = s.len ∧ t.snap = s.snap ∧ KeepsMemory s t

/-- R105, R143 for both commands, with the sentinels of R105 and R112: no one in the 32 positions from the cursor on that
lie in the buffer (the two failure events of R101 in one). -/
def Obligations.ExpGolombFailurePutsTheCursorPastTheEnd : Prop :=
  ∀ s : State, (∀ j ≤ 31, s.pos.toNat + j < s.len.toNat → streamBit s (s.pos.toNat + j) = false) →
    ∀ i, (i = .readUe ∨ i = .readSe) →
    ∃ t r, exec i s = .next t ∧ t.response = some r
      ∧ r.result = (if i = .readUe then 0x00000000FFFFFFFF#64 else 0xFFFFFFFF80000000#64)
      ∧ t.pos.toNat = min (max s.pos.toNat s.len.toNat + 1) (2 ^ 33 - 1)
      ∧ r.ill = false ∧ r.uef = true ∧ r.neg = true ∧ bitsLeft t ≤ -1
      ∧ t.base = s.base ∧ t.len = s.len ∧ t.snap = s.snap ∧ KeepsMemory s t

/-- R112: the result of every failed `READ_SE`, and only of a failed one (R113). -/
def Obligations.ReadSeSentinelMarksExactlyTheFailures : Prop :=
  ∀ s : State, ∃ t r, exec .readSe s = .next t ∧ t.response = some r ∧ (r.uef = true ↔ r.result = 0xFFFFFFFF80000000#64)
    ∧ (r.uef = false → -(2 ^ 31 - 1) ≤ r.result.toInt ∧ r.result.toInt ≤ 2 ^ 31 - 1)

/-- R104 (derived by the spec): the range of a decoded value, and that the sentinel marks exactly the failures; and the range
at any `KMAX` up to 31 (R7: a parameter), where only a longer prefix fails. -/
def Obligations.ReadUeSentinelMarksExactlyTheFailures : Prop :=
  (∀ s : State, ∃ t r, exec .readUe s = .next t ∧ t.response = some r ∧ (r.uef = true ↔ r.result = 0xFFFFFFFF#64)
    ∧ (r.uef = false → r.result.toNat ≤ 2 ^ 32 - 2)) ∧
  ∀ (LEN_W ADDR_W KMAX : Nat) (s : State LEN_W ADDR_W KMAX), KMAX ≤ 31 →
    ∃ t r, execAt .readUe s = .next t ∧ t.response = some r
      ∧ (r.uef = false → r.result.toNat ≤ 2 ^ (KMAX + 1) - 2)
      ∧ (r.uef = false ↔ ∃ k ≤ KMAX, streamBit s (s.pos.toNat + k) = true ∧ ∀ j < k, streamBit s (s.pos.toNat + j) = false)

/-- R103: the prefix and its one in the buffer, the suffix not: no failure, the missing suffix bits 0, an overread. -/
def Obligations.SuffixPastTheEndIsNoFailure : Prop :=
  ∀ (s : State) k, k ≤ 31 → (∀ j < k, streamBit s (s.pos.toNat + j) = false) → streamBit s (s.pos.toNat + k) = true →
    s.len.toNat < s.pos.toNat + 2 * k + 1 →
    ∃ t r, exec .readUe s = .next t ∧ t.response = some r ∧ r.uef = false ∧ r.neg = true ∧ bitsLeft t < 0
      ∧ t.pos.toNat = s.pos.toNat + 2 * k + 1
      ∧ ∀ m, m = s.len.toNat - (s.pos.toNat + k + 1) → m < k
          ∧ r.result.toNat = 2 ^ k - 1 + readStream s (s.pos.toNat + k + 1) m * 2 ^ (k - m)

/-- R113, R111 (derived by the spec): every value of the signed range is the map of exactly one unsigned value. -/
def Obligations.SignedMapIsABijection : Prop :=
  ∀ z : Int, -(2 ^ 31 - 1) ≤ z → z ≤ 2 ^ 31 - 1 → ∃! v : Nat, v ≤ 2 ^ 32 - 2 ∧ seMap v = z

/-- 95_test_vectors.md E3 for every value R104 admits (G2, G3): a codeword at the cursor decodes to its value and is
consumed whole. -/
def Obligations.UnsignedCodewordRoundTrip : Prop :=
  ∀ (s : State) v, v ≤ 2 ^ 32 - 2 →
    (∀ i (h : i < (ueCodeword v).length), streamBit s (s.pos.toNat + i) = (ueCodeword v)[i]) →
    ∃ t r, exec .readUe s = .next t ∧ t.response = some r ∧ r.result.toNat = v ∧ r.uef = false
      ∧ t.pos.toNat = s.pos.toNat + (ueCodeword v).length

/-- 95_test_vectors.md E3 for every value R113 admits (G2, G3). -/
def Obligations.SignedCodewordRoundTrip : Prop :=
  ∀ (s : State) (v : Int), -(2 ^ 31 - 1) ≤ v → v ≤ 2 ^ 31 - 1 →
    (∀ i (h : i < (seCodeword v).length), streamBit s (s.pos.toNat + i) = (seCodeword v)[i]) →
    ∃ t r, exec .readSe s = .next t ∧ t.response = some r ∧ r.result.toInt = v ∧ r.uef = false
      ∧ t.pos.toNat = s.pos.toNat + (seCodeword v).length

/-! ### Frames and operands -/

/-- R40, R20's "written by" column: what a command leaves alone. The model's own fields: the device set (log 6), the ports
(log 3), the inputs (log 1), the instance's number (log 13), the disturbed set (log 5), the index of the free values (log 7). -/
def Obligations.CommandsLeaveTheRestAlone : Prop :=
  ∀ i (s t : State), exec i s = .next t →
    KeepsMemory s t ∧ t.mem = s.mem ∧ t.devices = s.devices ∧ t.port = s.port ∧ t.inputs = s.inputs ∧ t.unitNo = s.unitNo
      ∧ (i ≠ .init → t.base = s.base ∧ t.len = s.len ∧ t.disturbed = s.disturbed)
      ∧ (i ≠ .init → i ≠ .snap → t.snap = s.snap)
      ∧ (i = .bitsLeft ∨ i = .snap → t.pos = s.pos)
      ∧ (i.wellFormed = true → t.draws = if readsStream i = true then s.draws + 1 else s.draws)

/-- R60: "An operand port a command does not use is ignored, whatever its value." -/
def Obligations.UnusedOperandPortsAreIgnored : Prop :=
  ∀ i (s t : State), exec i s = .next t →
    (usesArgA i = false → ∀ a, exec i (s.setPort { s.port with argA := a }) = .next (t.setPort { s.port with argA := a })) ∧
    (usesArgB i = false → ∀ b, exec i (s.setPort { s.port with argB := b }) = .next (t.setPort { s.port with argB := b })) ∧
    ∀ w, exec i (s.setPort { s.port with cmd := w }) = .next (t.setPort { s.port with cmd := w })

/-! ### Status -/

/-- R29: every command, an illegal one too, ends with a response whose `NEG` is the sign of the remaining bits. -/
def Obligations.EveryResponseReportsTheOverread : Prop :=
  ∀ (s t : State) r rest, s.inputs = .command r :: rest → step s = .next t →
    ∃ q, t.response = some q ∧ (q.neg = true ↔ (t.len.toNat : Int) - t.pos.toNat < 0)

/-- R144 (derived by the spec): which status bits can stand together. -/
def Obligations.StatusBitsThatStandTogether : Prop :=
  ∀ (s t : State) r rest, s.inputs = .command r :: rest → step s = .next t →
    ∃ q, t.response = some q ∧ (q.ill = true ↔ legal r.cmd = false) ∧ (q.ill = true → q.uef = false ∧ q.result = 0)
      ∧ (q.uef = true → q.neg = true ∧ (decode r.cmd = .ok .readUe ∨ decode r.cmd = .ok .readSe))

/-! ### Invariants and runs -/

/-- R31's invariant, with the canonical forms, the disturbed bytes in the buffer, and the response's status: every step
keeps it. (The model's own parts are log 1, 2, 4, 5, 6.) -/
def Obligations.EveryStepKeepsTheInvariant : Prop := ∀ s t : State, MachineInv s → step s = .next t → MachineInv t

/-- R31: in every state reachable from reset, over any memory and any inputs. -/
def Obligations.ReachableSnapshotIsNeverAheadOfTheCursor : Prop :=
  ∀ (m : Memory) (inputs : List Input) k s, run k ((State.reset.setMem m).setInputs inputs) = .next s →
    s.snap.toNat ≤ s.pos.toNat ∧ s.pos.toNat ≤ 2 ^ 33 - 1 ∧ s.len.toNat ≤ 2 ^ 32 - 1

/-- R31, R142: an overread lasts until `INIT`, `RESTORE` or reset, and every response until then shows it. -/
def Obligations.OverreadLastsUntilInitOrRestore : Prop :=
  ∀ k (s t : State), run k s = .next t → Overread s → (∀ x ∈ s.inputs.take k, ¬ x.endsOverread) →
    Overread t ∧ bitsLeft t < 0 ∧
      ((∀ q ∈ s.response, q.neg = true) → ∀ q ∈ t.response, q.neg = true)

/-- R151: a host that sees no overread at the end, with no `INIT`, `RESTORE` or reset since, had no overread and no
decode failure at any command before. -/
def Obligations.AcceptedParseHadNoFailure : Prop :=
  ∀ j k (s u t : State), MachineInv s → run j s = .next u → run k u = .next t →
    (∀ x ∈ u.inputs.take k, ¬ x.endsOverread) → ¬ Overread t →
    ¬ Overread u ∧ ∀ q ∈ u.response, Acceptable q ∧ q.uef = false

/-- R125, R130, R146 (the retry): a `RESTORE` returns to the cursor of the last `SNAP`, whatever ran between that wrote no
snapshot and began no session: overreads and failed decodes are undone. -/
def Obligations.RestoreUndoesEverythingSinceSnap : Prop :=
  ∀ k (s u t : State) r r' rest, s.inputs = .command r :: rest → decode r.cmd = .ok .snap →
    (∀ x ∈ rest.take k, ¬ x.writesSnap) → run (k + 1) s = .next u →
    u.inputs.head? = some (.command r') → decode r'.cmd = .ok .restore → run (k + 2) s = .next t →
    t.pos = s.pos ∧ t.base = s.base ∧ t.len = s.len ∧ bitsLeft t = bitsLeft s

/-- R131 (derived by the spec): with no `SNAP` since the `INIT`, or since the reset, a `RESTORE` returns to the start of the
buffer. The reset is an input (R160) or the power-up state. -/
def Obligations.RestoreWithoutSnapReturnsToTheStart : Prop :=
  (∀ k (s t : State) r rest, s.inputs = .command r :: rest → decode r.cmd = .ok .init →
    (∀ x ∈ rest.take k, ¬ x.writesSnap) → run (k + 1) s = .next t →
    t.snap = 0 ∧ ∃ v, exec .restore t = .next v ∧ v.pos = 0 ∧ v.base = r.argA ∧ v.len = r.argB) ∧
  (∀ k (s t : State) rest, s.inputs = .reset :: rest →
    (∀ x ∈ rest.take k, ¬ x.writesSnap) → run (k + 1) s = .next t →
    t.snap = 0 ∧ ∃ v, exec .restore t = .next v ∧ v.pos = 0 ∧ v.base = 0 ∧ v.len = 0) ∧
  ∀ k (m : Memory) (inputs : List Input) (t : State), (∀ x ∈ inputs.take k, ¬ x.writesSnap) →
    run k ((State.reset.setMem m).setInputs inputs) = .next t →
    t.snap = 0 ∧ ∃ v, exec .restore t = .next v ∧ v.pos = 0 ∧ v.base = 0 ∧ v.len = 0

/-! ### Assembler and pseudo-instructions -/

/-- R73: what a line issues is that line again, for every line but a `.word` of a legal word. -/
def Obligations.AssemblerLinesRoundTrip : Prop :=
  ∀ c : AsmCmd, (∀ n, c = .readBits n → n.toNat ≤ 32) → (∀ w, c = .word w → legal w = false) →
    c.request.disassemble = c

/-- R74: `SEEK p` reaches any position, forward or back, and clears the snapshot. (That a program which computes no value
ends with 0 is log 16.) -/
def Obligations.SeekReachesAnyPosition : Prop :=
  ∀ (s : State) base len p, ∃ t, (seek base len p).run s = some (0, t)
    ∧ t.pos.toNat = p.toNat ∧ t.snap = 0 ∧ t.base = base ∧ t.len = len

/-- R74: `GET_POS` gives the cursor and moves nothing; `SKIP_TO q`, within the range the rule gives, puts the cursor at
`q`; `SKIP_BYTES m`, within its range, moves it by `8*m`. (The value 0 of these two is log 16.) -/
def Obligations.GetPosSkipToAndSkipBytes : Prop :=
  (∀ s : State, ∃ t, (getPos s.len).run s = some ((s.pos.toNat : Int), t)
    ∧ t.pos = s.pos ∧ t.snap = s.snap ∧ t.base = s.base ∧ t.len = s.len) ∧
  (∀ (s : State) q, s.pos.toNat ≤ q → q - s.pos.toNat ≤ 2 ^ 32 - 1 →
    ∃ t, (skipTo s.len q).run s = some (0, t) ∧ t.pos.toNat = min q (2 ^ 33 - 1) ∧ t.snap = s.snap) ∧
  ∀ (s : State) m, 8 * m ≤ 2 ^ 32 - 1 →
    ∃ t, (skipBytes m).run s = some (0, t) ∧ t.pos.toNat = min (s.pos.toNat + 8 * m) (2 ^ 33 - 1)

/-- R74: `READ_LONG n` is one `n`-bit read, in an undisturbed buffer (R49); `READ_FLAG` is the next bit. -/
def Obligations.ReadLongIsOneReadAndReadFlagOneBit : Prop :=
  (∀ (s : State) n, 33 ≤ n → n ≤ 64 → Undisturbed s →
    ∃ t, (readLong n).run s = some ((readStream s s.pos.toNat n : Int), t)
      ∧ t.pos.toNat = min (s.pos.toNat + n) (2 ^ 33 - 1)) ∧
  ∀ s : State, ∃ t, readFlag.run s = some (((streamBit s s.pos.toNat).toNat : Int), t)
    ∧ t.pos.toNat = min (s.pos.toNat + 1) (2 ^ 33 - 1)

/-- R74: `UE_PLUS c` is `READ_UE` and the host's addition. -/
def Obligations.UePlusAddsToTheResult : Prop :=
  ∀ (s : State) c, ∃ t r, (uePlus c).run s = some ((r.result.toNat : Int) + c, t) ∧ t.response = some r
    ∧ ∃ v, exec .readUe s = .next v ∧ v.response = some r ∧ t.pos = v.pos

/-! ### Several instances -/

/-- R149: a command to one instance changes no other, gives that instance what it would give it alone, and two instances
may go on reading the same memory. That instances are a list of machines over one memory, that they share what is no
idempotent memory, and that each has a number of its own, which keeps their free values apart, is the model's (log 13). -/
def Obligations.InstancesShareNothing : Prop :=
  (∀ (us : List State) n r, OneMemory us → OwnNumbers us →
    OneMemory (commandTo us n r) ∧ OwnNumbers (commandTo us n r)
      ∧ (∀ a b, OneMemory (writeShared us a b) ∧ OwnNumbers (writeShared us a b))
      ∧ (∀ m, m ≠ n → (commandTo us n r)[m]? = us[m]?)
      ∧ ∀ u, us[n]? = some u →
          ∃ t, step (u.setInputs (.command r :: u.inputs)) = .next t ∧ (commandTo us n r)[n]? = some t) ∧
  ∀ n, OneMemory (resetUnits 32 64 31 n) ∧ OwnNumbers (resetUnits 32 64 31 n) ∧ (resetUnits 32 64 31 n).length = n
end

