-- ==== Sys2Proof/Laws/Config.lean ====
section
/-! SUPPORT. The parameters as numerals, and that the defaults of the types are those Config.lean names. -/

namespace Sys2Proof

@[simp] theorem Config.NMAX_eq : Config.NMAX = 32 := rfl
@[simp] theorem Config.KMAX_eq : Config.KMAX = 31 := rfl
@[simp] theorem Config.POS_MAX_eq : Config.POS_MAX = 8589934591 := by decide
@[simp] theorem Config.ADDR_W_eq : Config.ADDR_W = 64 := rfl
@[simp] theorem Config.FILL_eq : Config.FILL = false := rfl

theorem addr_width : Addr = BitVec Config.ADDR_W := rfl
theorem bitLen_width : BitLen = BitVec Config.LEN_W := rfl
theorem cursor_width : Cursor = BitVec Config.POS_W := rfl
theorem result_width : Result = BitVec Config.RES_W := rfl
theorem state_parameters :
    Machine.State = Machine.State Config.LEN_W Config.ADDR_W Config.KMAX := rfl

end Sys2Proof
end

