-- ==== Sys2Proof/Laws/Decode.lean ====
section
/-! SUPPORT. The fields of a command word as numbers, those of an encoded instruction, and what the decoder can answer. -/

namespace Sys2Proof

theorem opField_toNat (w : CmdWord) : (opField w).toNat = w.toNat / 2 ^ 28 := by
  simp [opField, Nat.shiftRight_eq_div_pow]; omega

theorem rsvField_toNat (w : CmdWord) : (rsvField w).toNat = w.toNat / 2 ^ 6 % 2 ^ 22 := by
  simp [rsvField, Nat.shiftRight_eq_div_pow]

theorem widthField_toNat (w : CmdWord) : (widthField w).toNat = w.toNat % 2 ^ 6 := by
  simp [widthField]

theorem encode_toNat (i : Instr) : (encode i).toNat = (opCode i).toNat * 2 ^ 28 + (widthCode i).toNat := by
  have h₁ := (opCode i).isLt
  have h₂ := (widthCode i).isLt
  rw [encode, BitVec.toNat_append, BitVec.toNat_append, ← Nat.shiftLeft_add_eq_or_of_lt h₂, Nat.shiftLeft_eq,
    ← Nat.shiftLeft_add_eq_or_of_lt (by decide), Nat.shiftLeft_eq]
  simp
  omega

theorem opField_encode (i : Instr) : opField (encode i) = opCode i := by
  have h₁ := (widthCode i).isLt
  apply BitVec.eq_of_toNat_eq
  rw [opField_toNat, encode_toNat]
  omega

theorem rsvField_encode (i : Instr) : rsvField (encode i) = 0 := by
  have h₁ := (widthCode i).isLt
  apply BitVec.eq_of_toNat_eq
  rw [rsvField_toNat, encode_toNat, show (0 : BitVec 22).toNat = 0 from rfl]
  omega

theorem widthField_encode (i : Instr) : widthField (encode i) = widthCode i := by
  have h₁ := (widthCode i).isLt
  apply BitVec.eq_of_toNat_eq
  rw [widthField_toNat, encode_toNat]
  omega

theorem decodePlain_eq_ok {w : CmdWord} {i j : Instr} :
    decodePlain w i = .ok j ↔ rsvField w = 0 ∧ widthField w = 0 ∧ i = j := by
  simp only [decodePlain]
  split <;> [skip; split] <;> simp_all

theorem decodeReadBits_eq_ok {w : CmdWord} {j : Instr} :
    decodeReadBits w = .ok j ↔ rsvField w = 0 ∧ (widthField w).toNat ≤ 32 ∧ .readBits (widthField w) = j := by
  rw [decodeReadBits]
  split <;> [skip; split] <;> simp_all

theorem wellFormed_readBits {n : BitVec 6} : (Instr.readBits n).wellFormed = true ↔ n.toNat ≤ 32 := decide_eq_true_iff

/-- What the decoder can answer: the operation code names the instruction, `RSV` is 0, and `N` is the instruction's. -/
theorem decode_eq_ok {w : CmdWord} {i : Instr} :
    decode w = .ok i ↔
      opField w = opCode i ∧ rsvField w = 0 ∧ widthField w = widthCode i ∧ i.wellFormed = true := by
  constructor
  · intro h
    simp only [decode] at h
    split at h
    case h_2 ho =>
      obtain ⟨h₁, h₂, rfl⟩ := decodeReadBits_eq_ok.1 h
      exact ⟨BitVec.eq_of_toNat_eq ho, h₁, rfl, wellFormed_readBits.2 h₂⟩
    case h_9 => cases h
    all_goals
      rename_i ho
      obtain ⟨h₁, h₂, rfl⟩ := decodePlain_eq_ok.1 h
      exact ⟨BitVec.eq_of_toNat_eq ho, h₁, h₂, rfl⟩
  · rintro ⟨ho, hr, hn, hw⟩
    cases i with
    | readBits n =>
      simp only [decode, ho, opCode]
      exact decodeReadBits_eq_ok.2 ⟨hr, hn ▸ wellFormed_readBits.1 hw, by rw [hn]; rfl⟩
    | _ =>
      simp only [decode, ho, opCode]
      exact decodePlain_eq_ok.2 ⟨hr, hn, rfl⟩

end Sys2Proof
end

