-- ==== Sys2Proof/Laws/State.lean ====
section
/-! SUPPORT. One lemma per field per update of State. -/

namespace Sys2Proof.Machine

variable {LEN_W ADDR_W KMAX : Nat} (s : State LEN_W ADDR_W KMAX)

section
variable (v : Addr ADDR_W)
@[simp] theorem State.setBase_base : (s.setBase v).base = v := rfl
@[simp] theorem State.setBase_len : (s.setBase v).len = s.len := rfl
@[simp] theorem State.setBase_pos : (s.setBase v).pos = s.pos := rfl
@[simp] theorem State.setBase_snap : (s.setBase v).snap = s.snap := rfl
@[simp] theorem State.setBase_mem : (s.setBase v).mem = s.mem := rfl
@[simp] theorem State.setBase_devices : (s.setBase v).devices = s.devices := rfl
@[simp] theorem State.setBase_disturbed : (s.setBase v).disturbed = s.disturbed := rfl
@[simp] theorem State.setBase_unitNo : (s.setBase v).unitNo = s.unitNo := rfl
@[simp] theorem State.setBase_draws : (s.setBase v).draws = s.draws := rfl
@[simp] theorem State.setBase_port : (s.setBase v).port = s.port := rfl
@[simp] theorem State.setBase_response : (s.setBase v).response = s.response := rfl
@[simp] theorem State.setBase_inputs : (s.setBase v).inputs = s.inputs := rfl
end

section
variable (v : BitLen LEN_W)
@[simp] theorem State.setLen_base : (s.setLen v).base = s.base := rfl
@[simp] theorem State.setLen_len : (s.setLen v).len = v := rfl
@[simp] theorem State.setLen_pos : (s.setLen v).pos = s.pos := rfl
@[simp] theorem State.setLen_snap : (s.setLen v).snap = s.snap := rfl
@[simp] theorem State.setLen_mem : (s.setLen v).mem = s.mem := rfl
@[simp] theorem State.setLen_devices : (s.setLen v).devices = s.devices := rfl
@[simp] theorem State.setLen_disturbed : (s.setLen v).disturbed = s.disturbed := rfl
@[simp] theorem State.setLen_unitNo : (s.setLen v).unitNo = s.unitNo := rfl
@[simp] theorem State.setLen_draws : (s.setLen v).draws = s.draws := rfl
@[simp] theorem State.setLen_port : (s.setLen v).port = s.port := rfl
@[simp] theorem State.setLen_response : (s.setLen v).response = s.response := rfl
@[simp] theorem State.setLen_inputs : (s.setLen v).inputs = s.inputs := rfl
end

section
variable (v : Cursor LEN_W)
@[simp] theorem State.setPos_base : (s.setPos v).base = s.base := rfl
@[simp] theorem State.setPos_len : (s.setPos v).len = s.len := rfl
@[simp] theorem State.setPos_pos : (s.setPos v).pos = v := rfl
@[simp] theorem State.setPos_snap : (s.setPos v).snap = s.snap := rfl
@[simp] theorem State.setPos_mem : (s.setPos v).mem = s.mem := rfl
@[simp] theorem State.setPos_devices : (s.setPos v).devices = s.devices := rfl
@[simp] theorem State.setPos_disturbed : (s.setPos v).disturbed = s.disturbed := rfl
@[simp] theorem State.setPos_unitNo : (s.setPos v).unitNo = s.unitNo := rfl
@[simp] theorem State.setPos_draws : (s.setPos v).draws = s.draws := rfl
@[simp] theorem State.setPos_port : (s.setPos v).port = s.port := rfl
@[simp] theorem State.setPos_response : (s.setPos v).response = s.response := rfl
@[simp] theorem State.setPos_inputs : (s.setPos v).inputs = s.inputs := rfl
end

section
variable (v : Cursor LEN_W)
@[simp] theorem State.setSnap_base : (s.setSnap v).base = s.base := rfl
@[simp] theorem State.setSnap_len : (s.setSnap v).len = s.len := rfl
@[simp] theorem State.setSnap_pos : (s.setSnap v).pos = s.pos := rfl
@[simp] theorem State.setSnap_snap : (s.setSnap v).snap = v := rfl
@[simp] theorem State.setSnap_mem : (s.setSnap v).mem = s.mem := rfl
@[simp] theorem State.setSnap_devices : (s.setSnap v).devices = s.devices := rfl
@[simp] theorem State.setSnap_disturbed : (s.setSnap v).disturbed = s.disturbed := rfl
@[simp] theorem State.setSnap_unitNo : (s.setSnap v).unitNo = s.unitNo := rfl
@[simp] theorem State.setSnap_draws : (s.setSnap v).draws = s.draws := rfl
@[simp] theorem State.setSnap_port : (s.setSnap v).port = s.port := rfl
@[simp] theorem State.setSnap_response : (s.setSnap v).response = s.response := rfl
@[simp] theorem State.setSnap_inputs : (s.setSnap v).inputs = s.inputs := rfl
end

section
variable (v : Memory)
@[simp] theorem State.setMem_base : (s.setMem v).base = s.base := rfl
@[simp] theorem State.setMem_len : (s.setMem v).len = s.len := rfl
@[simp] theorem State.setMem_pos : (s.setMem v).pos = s.pos := rfl
@[simp] theorem State.setMem_snap : (s.setMem v).snap = s.snap := rfl
@[simp] theorem State.setMem_mem : (s.setMem v).mem = v := rfl
@[simp] theorem State.setMem_devices : (s.setMem v).devices = s.devices := rfl
@[simp] theorem State.setMem_disturbed : (s.setMem v).disturbed = s.disturbed := rfl
@[simp] theorem State.setMem_unitNo : (s.setMem v).unitNo = s.unitNo := rfl
@[simp] theorem State.setMem_draws : (s.setMem v).draws = s.draws := rfl
@[simp] theorem State.setMem_port : (s.setMem v).port = s.port := rfl
@[simp] theorem State.setMem_response : (s.setMem v).response = s.response := rfl
@[simp] theorem State.setMem_inputs : (s.setMem v).inputs = s.inputs := rfl
end

section
variable (v : List Nat)
@[simp] theorem State.setDevices_base : (s.setDevices v).base = s.base := rfl
@[simp] theorem State.setDevices_len : (s.setDevices v).len = s.len := rfl
@[simp] theorem State.setDevices_pos : (s.setDevices v).pos = s.pos := rfl
@[simp] theorem State.setDevices_snap : (s.setDevices v).snap = s.snap := rfl
@[simp] theorem State.setDevices_mem : (s.setDevices v).mem = s.mem := rfl
@[simp] theorem State.setDevices_devices : (s.setDevices v).devices = v := rfl
@[simp] theorem State.setDevices_disturbed : (s.setDevices v).disturbed = s.disturbed := rfl
@[simp] theorem State.setDevices_unitNo : (s.setDevices v).unitNo = s.unitNo := rfl
@[simp] theorem State.setDevices_draws : (s.setDevices v).draws = s.draws := rfl
@[simp] theorem State.setDevices_port : (s.setDevices v).port = s.port := rfl
@[simp] theorem State.setDevices_response : (s.setDevices v).response = s.response := rfl
@[simp] theorem State.setDevices_inputs : (s.setDevices v).inputs = s.inputs := rfl
end

section
variable (v : List Nat)
@[simp] theorem State.setDisturbed_base : (s.setDisturbed v).base = s.base := rfl
@[simp] theorem State.setDisturbed_len : (s.setDisturbed v).len = s.len := rfl
@[simp] theorem State.setDisturbed_pos : (s.setDisturbed v).pos = s.pos := rfl
@[simp] theorem State.setDisturbed_snap : (s.setDisturbed v).snap = s.snap := rfl
@[simp] theorem State.setDisturbed_mem : (s.setDisturbed v).mem = s.mem := rfl
@[simp] theorem State.setDisturbed_devices : (s.setDisturbed v).devices = s.devices := rfl
@[simp] theorem State.setDisturbed_disturbed : (s.setDisturbed v).disturbed = v := rfl
@[simp] theorem State.setDisturbed_unitNo : (s.setDisturbed v).unitNo = s.unitNo := rfl
@[simp] theorem State.setDisturbed_draws : (s.setDisturbed v).draws = s.draws := rfl
@[simp] theorem State.setDisturbed_port : (s.setDisturbed v).port = s.port := rfl
@[simp] theorem State.setDisturbed_response : (s.setDisturbed v).response = s.response := rfl
@[simp] theorem State.setDisturbed_inputs : (s.setDisturbed v).inputs = s.inputs := rfl
end

section
variable (v : Nat)
@[simp] theorem State.setUnitNo_base : (s.setUnitNo v).base = s.base := rfl
@[simp] theorem State.setUnitNo_len : (s.setUnitNo v).len = s.len := rfl
@[simp] theorem State.setUnitNo_pos : (s.setUnitNo v).pos = s.pos := rfl
@[simp] theorem State.setUnitNo_snap : (s.setUnitNo v).snap = s.snap := rfl
@[simp] theorem State.setUnitNo_mem : (s.setUnitNo v).mem = s.mem := rfl
@[simp] theorem State.setUnitNo_devices : (s.setUnitNo v).devices = s.devices := rfl
@[simp] theorem State.setUnitNo_disturbed : (s.setUnitNo v).disturbed = s.disturbed := rfl
@[simp] theorem State.setUnitNo_unitNo : (s.setUnitNo v).unitNo = v := rfl
@[simp] theorem State.setUnitNo_draws : (s.setUnitNo v).draws = s.draws := rfl
@[simp] theorem State.setUnitNo_port : (s.setUnitNo v).port = s.port := rfl
@[simp] theorem State.setUnitNo_response : (s.setUnitNo v).response = s.response := rfl
@[simp] theorem State.setUnitNo_inputs : (s.setUnitNo v).inputs = s.inputs := rfl
end

section
variable (v : Nat)
@[simp] theorem State.setDraws_base : (s.setDraws v).base = s.base := rfl
@[simp] theorem State.setDraws_len : (s.setDraws v).len = s.len := rfl
@[simp] theorem State.setDraws_pos : (s.setDraws v).pos = s.pos := rfl
@[simp] theorem State.setDraws_snap : (s.setDraws v).snap = s.snap := rfl
@[simp] theorem State.setDraws_mem : (s.setDraws v).mem = s.mem := rfl
@[simp] theorem State.setDraws_devices : (s.setDraws v).devices = s.devices := rfl
@[simp] theorem State.setDraws_disturbed : (s.setDraws v).disturbed = s.disturbed := rfl
@[simp] theorem State.setDraws_unitNo : (s.setDraws v).unitNo = s.unitNo := rfl
@[simp] theorem State.setDraws_draws : (s.setDraws v).draws = v := rfl
@[simp] theorem State.setDraws_port : (s.setDraws v).port = s.port := rfl
@[simp] theorem State.setDraws_response : (s.setDraws v).response = s.response := rfl
@[simp] theorem State.setDraws_inputs : (s.setDraws v).inputs = s.inputs := rfl
end

section
variable (v : Request LEN_W ADDR_W)
@[simp] theorem State.setPort_base : (s.setPort v).base = s.base := rfl
@[simp] theorem State.setPort_len : (s.setPort v).len = s.len := rfl
@[simp] theorem State.setPort_pos : (s.setPort v).pos = s.pos := rfl
@[simp] theorem State.setPort_snap : (s.setPort v).snap = s.snap := rfl
@[simp] theorem State.setPort_mem : (s.setPort v).mem = s.mem := rfl
@[simp] theorem State.setPort_devices : (s.setPort v).devices = s.devices := rfl
@[simp] theorem State.setPort_disturbed : (s.setPort v).disturbed = s.disturbed := rfl
@[simp] theorem State.setPort_unitNo : (s.setPort v).unitNo = s.unitNo := rfl
@[simp] theorem State.setPort_draws : (s.setPort v).draws = s.draws := rfl
@[simp] theorem State.setPort_port : (s.setPort v).port = v := rfl
@[simp] theorem State.setPort_response : (s.setPort v).response = s.response := rfl
@[simp] theorem State.setPort_inputs : (s.setPort v).inputs = s.inputs := rfl
end

section
variable (v : Option Response)
@[simp] theorem State.setResponse_base : (s.setResponse v).base = s.base := rfl
@[simp] theorem State.setResponse_len : (s.setResponse v).len = s.len := rfl
@[simp] theorem State.setResponse_pos : (s.setResponse v).pos = s.pos := rfl
@[simp] theorem State.setResponse_snap : (s.setResponse v).snap = s.snap := rfl
@[simp] theorem State.setResponse_mem : (s.setResponse v).mem = s.mem := rfl
@[simp] theorem State.setResponse_devices : (s.setResponse v).devices = s.devices := rfl
@[simp] theorem State.setResponse_disturbed : (s.setResponse v).disturbed = s.disturbed := rfl
@[simp] theorem State.setResponse_unitNo : (s.setResponse v).unitNo = s.unitNo := rfl
@[simp] theorem State.setResponse_draws : (s.setResponse v).draws = s.draws := rfl
@[simp] theorem State.setResponse_port : (s.setResponse v).port = s.port := rfl
@[simp] theorem State.setResponse_response : (s.setResponse v).response = v := rfl
@[simp] theorem State.setResponse_inputs : (s.setResponse v).inputs = s.inputs := rfl
end

section
variable (v : List (Input LEN_W ADDR_W))
@[simp] theorem State.setInputs_base : (s.setInputs v).base = s.base := rfl
@[simp] theorem State.setInputs_len : (s.setInputs v).len = s.len := rfl
@[simp] theorem State.setInputs_pos : (s.setInputs v).pos = s.pos := rfl
@[simp] theorem State.setInputs_snap : (s.setInputs v).snap = s.snap := rfl
@[simp] theorem State.setInputs_mem : (s.setInputs v).mem = s.mem := rfl
@[simp] theorem State.setInputs_devices : (s.setInputs v).devices = s.devices := rfl
@[simp] theorem State.setInputs_disturbed : (s.setInputs v).disturbed = s.disturbed := rfl
@[simp] theorem State.setInputs_unitNo : (s.setInputs v).unitNo = s.unitNo := rfl
@[simp] theorem State.setInputs_draws : (s.setInputs v).draws = s.draws := rfl
@[simp] theorem State.setInputs_port : (s.setInputs v).port = s.port := rfl
@[simp] theorem State.setInputs_response : (s.setInputs v).response = s.response := rfl
@[simp] theorem State.setInputs_inputs : (s.setInputs v).inputs = v := rfl
end

end Sys2Proof.Machine
end

