-- ==== Sys2Proof/Laws/Memory.lean ====
section
/-! SUPPORT. The memory and the address sets: read after write, and that every operation keeps the canonical form. -/

namespace Sys2Proof.Machine

open Sys2Proof

variable {LEN_W ADDR_W KMAX : Nat}

theorem Memory.read_eq_unlisted {m : Memory} {a : Nat} (h : ∀ c ∈ m, c.1 ≠ a) : Memory.read m a = unlistedByte := by
  induction m with
  | nil => rfl
  | cons c m ih =>
    obtain ⟨k, x⟩ := c
    have hk : a ≠ k := fun e => h (k, x) (by simp) e.symm
    simp only [Memory.read, if_neg hk]
    exact ih fun c hc => h c (by simp [hc])

/-- A write is read back, and every other address reads as before. -/
theorem Memory.read_write {m : Memory} (hm : Memory.wf m ADDR_W) (a : Nat) (b : Byte) (x : Nat) :
    Memory.read (Memory.write m a b) x = if x = a then b else Memory.read m x := by
  induction m with
  | nil =>
    by_cases hb : b = unlistedByte <;> simp [Memory.write, Memory.read, hb]
  | cons c m ih =>
    obtain ⟨k, y⟩ := c
    have hrise : ∀ c ∈ m, k < c.1 := fun c hc => (List.pairwise_cons.1 hm.1).1 c hc
    have hwf : Memory.wf m ADDR_W := ⟨(List.pairwise_cons.1 hm.1).2, fun c hc => hm.2 c (by simp [hc])⟩
    have habsent : ∀ z ≤ k, Memory.read m z = unlistedByte := fun z hz =>
      Memory.read_eq_unlisted fun c hc e => by have := hrise c hc; omega
    have := ih hwf
    simp only [Memory.write]
    split
    · split <;> grind [Memory.read]
    · split
      · split <;> grind [Memory.read]
      · grind [Memory.read]

/-- What a write can list: the address written, with a byte that differs from an unlisted one, or what was there. -/
theorem Memory.mem_write {m : Memory} {a : Nat} {b : Byte} {c : Host.Cell} (h : c ∈ Memory.write m a b) :
    (c = (a, b) ∧ b ≠ unlistedByte) ∨ c ∈ m := by
  induction m with
  | nil => simp only [Memory.write] at h; split at h <;> simp_all
  | cons d m ih => simp only [Memory.write] at h; grind

/-- A write keeps the canonical form. -/
theorem Memory.write_wf {m : Memory} (hm : Memory.wf m ADDR_W) {a : Nat} (ha : a < 2 ^ ADDR_W) (b : Byte) :
    Memory.wf (Memory.write m a b) ADDR_W := by
  refine ⟨?_, fun c hc => ?_⟩
  · induction m with
    | nil => simp only [Memory.write]; (split <;> simp)
    | cons d m ih =>
      obtain ⟨k, y⟩ := d
      obtain ⟨hrise, hp⟩ := List.pairwise_cons.1 hm.1
      have hwf : Memory.wf m ADDR_W := ⟨hp, fun c hc => hm.2 c (by simp [hc])⟩
      simp only [Memory.write]
      split
      · split
        · exact hm.1
        · refine List.pairwise_cons.2 ⟨fun c hc => ?_, hm.1⟩
          rcases List.mem_cons.1 hc with rfl | hc
          · assumption
          · have := hrise c hc; simp only at this ⊢; omega
      · split
        · split
          · exact hp
          · exact List.pairwise_cons.2 ⟨hrise, hp⟩
        · refine List.pairwise_cons.2 ⟨fun c hc => ?_, ih hwf⟩
          rcases Memory.mem_write hc with ⟨rfl, -⟩ | hc
          · simp only; omega
          · exact hrise c hc
  · rcases Memory.mem_write hc with ⟨rfl, hb⟩ | hc
    · exact ⟨ha, hb⟩
    · exact hm.2 c hc

theorem Memory.nil_wf : Memory.wf [] ADDR_W := by simp [Memory.wf]

theorem reset_mem_wf : State.reset.mem.wf := Memory.nil_wf

@[simp] theorem mem_insertAddr {l : List Nat} {a x : Nat} : x ∈ insertAddr l a ↔ x = a ∨ x ∈ l := by
  induction l with
  | nil => simp [insertAddr]
  | cons k l ih => simp only [insertAddr]; split <;> [simp; (split <;> grind)]

theorem insertAddr_wf {l : List Nat} (hl : addrsWf l ADDR_W) {a : Nat} (ha : a < 2 ^ ADDR_W) :
    addrsWf (insertAddr l a) ADDR_W := by
  refine ⟨?_, fun x hx => ?_⟩
  · induction l with
    | nil => simp [insertAddr]
    | cons k l ih =>
      obtain ⟨hrise, hp⟩ := List.pairwise_cons.1 hl.1
      have hwf : addrsWf l ADDR_W := ⟨hp, fun x hx => hl.2 x (by simp [hx])⟩
      simp only [insertAddr]
      split
      · refine List.pairwise_cons.2 ⟨fun x hx => ?_, hl.1⟩
        rcases List.mem_cons.1 hx with rfl | hx
        · assumption
        · have := hrise x hx; omega
      · split
        · exact hl.1
        · refine List.pairwise_cons.2 ⟨fun x hx => ?_, ih hwf⟩
          rcases mem_insertAddr.1 hx with rfl | hx
          · omega
          · exact hrise x hx
  · rcases mem_insertAddr.1 hx with rfl | hx
    · exact ha
    · exact hl.2 x hx

end Sys2Proof.Machine
end

