-- ==== Sys2Proof/Laws/Fields.lean ====
section
/-! SUPPORT. What each shared operation on the state leaves in each field. -/

namespace Sys2Proof.Machine

open Sys2Proof

variable {LEN_W ADDR_W KMAX : Nat}

section
variable (s : State LEN_W ADDR_W KMAX)
@[simp] theorem nextDraw_base : (nextDraw s).base = s.base := rfl
@[simp] theorem nextDraw_len : (nextDraw s).len = s.len := rfl
@[simp] theorem nextDraw_pos : (nextDraw s).pos = s.pos := rfl
@[simp] theorem nextDraw_snap : (nextDraw s).snap = s.snap := rfl
@[simp] theorem nextDraw_mem : (nextDraw s).mem = s.mem := rfl
@[simp] theorem nextDraw_devices : (nextDraw s).devices = s.devices := rfl
@[simp] theorem nextDraw_disturbed : (nextDraw s).disturbed = s.disturbed := rfl
@[simp] theorem nextDraw_unitNo : (nextDraw s).unitNo = s.unitNo := rfl
@[simp] theorem nextDraw_draws : (nextDraw s).draws = s.draws + 1 := rfl
@[simp] theorem nextDraw_port : (nextDraw s).port = s.port := rfl
@[simp] theorem nextDraw_response : (nextDraw s).response = s.response := rfl
@[simp] theorem nextDraw_inputs : (nextDraw s).inputs = s.inputs := rfl
end

section
variable (s : State LEN_W ADDR_W KMAX) (b : Addr ADDR_W) (l : BitLen LEN_W)
@[simp] theorem startSession_base : (startSession s b l).base = b := rfl
@[simp] theorem startSession_len : (startSession s b l).len = l := rfl
@[simp] theorem startSession_pos : (startSession s b l).pos = 0 := rfl
@[simp] theorem startSession_snap : (startSession s b l).snap = 0 := rfl
@[simp] theorem startSession_mem : (startSession s b l).mem = s.mem := rfl
@[simp] theorem startSession_devices : (startSession s b l).devices = s.devices := rfl
@[simp] theorem startSession_disturbed : (startSession s b l).disturbed = [] := rfl
@[simp] theorem startSession_unitNo : (startSession s b l).unitNo = s.unitNo := rfl
@[simp] theorem startSession_draws : (startSession s b l).draws = s.draws := rfl
@[simp] theorem startSession_port : (startSession s b l).port = s.port := rfl
@[simp] theorem startSession_response : (startSession s b l).response = s.response := rfl
@[simp] theorem startSession_inputs : (startSession s b l).inputs = s.inputs := rfl
end

section
variable (s : State LEN_W ADDR_W KMAX)
@[simp] theorem ueFail_base : (ueFail s).base = s.base := rfl
@[simp] theorem ueFail_len : (ueFail s).len = s.len := rfl
@[simp] theorem ueFail_pos : (ueFail s).pos = saturate (max s.pos.toNat s.len.toNat + 1) := rfl
@[simp] theorem ueFail_snap : (ueFail s).snap = s.snap := rfl
@[simp] theorem ueFail_mem : (ueFail s).mem = s.mem := rfl
@[simp] theorem ueFail_devices : (ueFail s).devices = s.devices := rfl
@[simp] theorem ueFail_disturbed : (ueFail s).disturbed = s.disturbed := rfl
@[simp] theorem ueFail_unitNo : (ueFail s).unitNo = s.unitNo := rfl
@[simp] theorem ueFail_draws : (ueFail s).draws = s.draws := rfl
@[simp] theorem ueFail_port : (ueFail s).port = s.port := rfl
@[simp] theorem ueFail_response : (ueFail s).response = s.response := rfl
@[simp] theorem ueFail_inputs : (ueFail s).inputs = s.inputs := rfl
end

section
variable (s : State LEN_W ADDR_W KMAX)
@[simp] theorem illegalCommand_base : (illegalCommand s).base = s.base := rfl
@[simp] theorem illegalCommand_len : (illegalCommand s).len = s.len := rfl
@[simp] theorem illegalCommand_pos : (illegalCommand s).pos = s.pos := rfl
@[simp] theorem illegalCommand_snap : (illegalCommand s).snap = s.snap := rfl
@[simp] theorem illegalCommand_mem : (illegalCommand s).mem = s.mem := rfl
@[simp] theorem illegalCommand_devices : (illegalCommand s).devices = s.devices := rfl
@[simp] theorem illegalCommand_disturbed : (illegalCommand s).disturbed = s.disturbed := rfl
@[simp] theorem illegalCommand_unitNo : (illegalCommand s).unitNo = s.unitNo := rfl
@[simp] theorem illegalCommand_draws : (illegalCommand s).draws = s.draws := rfl
@[simp] theorem illegalCommand_port : (illegalCommand s).port = s.port := rfl
@[simp] theorem illegalCommand_response : (illegalCommand s).response = some { result := 0, st := statusWord true (negFlag s) false } := rfl
@[simp] theorem illegalCommand_inputs : (illegalCommand s).inputs = s.inputs := rfl
end

section
variable (s : State LEN_W ADDR_W KMAX) (r : Request LEN_W ADDR_W) (rest : List (Input LEN_W ADDR_W))
@[simp] theorem accept_base : (accept s r rest).base = s.base := rfl
@[simp] theorem accept_len : (accept s r rest).len = s.len := rfl
@[simp] theorem accept_pos : (accept s r rest).pos = s.pos := rfl
@[simp] theorem accept_snap : (accept s r rest).snap = s.snap := rfl
@[simp] theorem accept_mem : (accept s r rest).mem = s.mem := rfl
@[simp] theorem accept_devices : (accept s r rest).devices = s.devices := rfl
@[simp] theorem accept_disturbed : (accept s r rest).disturbed = s.disturbed := rfl
@[simp] theorem accept_unitNo : (accept s r rest).unitNo = s.unitNo := rfl
@[simp] theorem accept_draws : (accept s r rest).draws = s.draws := rfl
@[simp] theorem accept_port : (accept s r rest).port = r := rfl
@[simp] theorem accept_response : (accept s r rest).response = s.response := rfl
@[simp] theorem accept_inputs : (accept s r rest).inputs = rest := rfl
end

section
variable (s : State LEN_W ADDR_W KMAX) (a : Addr ADDR_W)
@[simp] theorem mapDevice_base : (mapDevice s a).base = s.base := rfl
@[simp] theorem mapDevice_len : (mapDevice s a).len = s.len := rfl
@[simp] theorem mapDevice_pos : (mapDevice s a).pos = s.pos := rfl
@[simp] theorem mapDevice_snap : (mapDevice s a).snap = s.snap := rfl
@[simp] theorem mapDevice_mem : (mapDevice s a).mem = s.mem := rfl
@[simp] theorem mapDevice_devices : (mapDevice s a).devices = insertAddr s.devices a.toNat := rfl
@[simp] theorem mapDevice_disturbed : (mapDevice s a).disturbed = s.disturbed := rfl
@[simp] theorem mapDevice_unitNo : (mapDevice s a).unitNo = s.unitNo := rfl
@[simp] theorem mapDevice_draws : (mapDevice s a).draws = s.draws := rfl
@[simp] theorem mapDevice_port : (mapDevice s a).port = s.port := rfl
@[simp] theorem mapDevice_response : (mapDevice s a).response = s.response := rfl
@[simp] theorem mapDevice_inputs : (mapDevice s a).inputs = s.inputs := rfl
end

section
variable (s : State LEN_W ADDR_W KMAX)
@[simp] theorem externalReset_base : (externalReset s).base = 0 := rfl
@[simp] theorem externalReset_len : (externalReset s).len = 0 := rfl
@[simp] theorem externalReset_pos : (externalReset s).pos = 0 := rfl
@[simp] theorem externalReset_snap : (externalReset s).snap = 0 := rfl
@[simp] theorem externalReset_mem : (externalReset s).mem = s.mem := rfl
@[simp] theorem externalReset_devices : (externalReset s).devices = s.devices := rfl
@[simp] theorem externalReset_disturbed : (externalReset s).disturbed = [] := rfl
@[simp] theorem externalReset_unitNo : (externalReset s).unitNo = s.unitNo := rfl
@[simp] theorem externalReset_draws : (externalReset s).draws = s.draws := rfl
@[simp] theorem externalReset_port : (externalReset s).port = s.port := rfl
@[simp] theorem externalReset_response : (externalReset s).response = none := rfl
@[simp] theorem externalReset_inputs : (externalReset s).inputs = s.inputs := rfl
end

end Sys2Proof.Machine
end

