-- ==== Sys2Proof/Laws/Ops.lean ====
section
/-! SUPPORT. What each shared operation does, once: status bits, results, cursor, response, stream, decode. -/

namespace Sys2Proof.Machine

open Sys2Proof

variable {LEN_W ADDR_W KMAX : Nat}

/-! ### Status bits and results -/

@[simp] theorem ill_statusWord (v : Result) (i n u : Bool) : Response.ill { result := v, st := statusWord i n u } = i := by
  simp only [Response.ill]
  revert i n u
  decide

@[simp] theorem neg_statusWord (v : Result) (i n u : Bool) : Response.neg { result := v, st := statusWord i n u } = n := by
  simp only [Response.neg]
  revert i n u
  decide

@[simp] theorem uef_statusWord (v : Result) (i n u : Bool) : Response.uef { result := v, st := statusWord i n u } = u := by
  simp only [Response.uef]
  revert i n u
  decide

theorem negFlag_iff (s : State LEN_W ADDR_W KMAX) : negFlag s = true ↔ s.len.toNat < s.pos.toNat := by
  rw [negFlag, decide_eq_true_iff, bitsLeft]; omega

/-- R29: the overread bit of the response that ends a command in state `s`. -/
theorem neg_of_respond (s : State LEN_W ADDR_W KMAX) (v : Result) (i u : Bool) :
    Response.neg { result := v, st := statusWord i (negFlag s) u } = true ↔ s.len.toNat < s.pos.toNat := by
  rw [neg_statusWord, negFlag_iff]

theorem resultUnsigned_toNat {v : Nat} (h : v < 2 ^ 64) : (resultUnsigned v).toNat = v := by
  simp only [resultUnsigned, BitVec.toNat_ofNat]; omega

theorem resultSigned_toInt {v : Int} (h₁ : -(2 ^ 63) ≤ v) (h₂ : v < 2 ^ 63) : (resultSigned v).toInt = v := by
  rw [resultSigned, BitVec.toInt_ofInt]
  exact Int.bmod_eq_of_le (by omega) (by omega)

/-- R22: every remaining-bits value a state has fits the `BL_W`-bit result, and that fits the result port. -/
theorem resultBitsLeft_toInt (s : State LEN_W ADDR_W KMAX) (h : LEN_W ≤ 62 := by omega) :
    (resultBitsLeft LEN_W (bitsLeft s)).toInt = bitsLeft s := by
  have h₁ := s.len.isLt
  have h₂ := s.pos.isLt
  have h₃ : (2 : Nat) ^ (LEN_W + 2) = 4 * 2 ^ LEN_W := by rw [Nat.pow_add]; omega
  rw [resultBitsLeft, BitVec.toInt_signExtend_of_le (by simpa [Config.BL_W] using h), BitVec.toInt_ofInt, h₃]
  rw [Nat.pow_succ] at h₂
  exact Int.bmod_eq_of_le (by simp only [bitsLeft]; omega) (by simp only [bitsLeft]; omega)

/-! ### Cursor -/

@[simp] theorem saturate_toNat (v : Nat) : (saturate v : Cursor LEN_W).toNat = min v (2 ^ (LEN_W + 1) - 1) := by
  have := Nat.two_pow_pos (LEN_W + 1)
  simp only [saturate, Config.POS_MAX, Config.POS_W, BitVec.toNat_ofNat]
  exact Nat.mod_eq_of_lt (by omega)

/-- R24. -/
@[simp] theorem advance_pos_toNat (s : State LEN_W ADDR_W KMAX) (n : Nat) :
    (advance s n).pos.toNat = min (s.pos.toNat + n) (2 ^ (LEN_W + 1) - 1) := by
  simp only [advance, State.setPos_pos, saturate_toNat]

section
variable (s : State LEN_W ADDR_W KMAX) (n : Nat)
@[simp] theorem advance_base : (advance s n).base = s.base := rfl
@[simp] theorem advance_len : (advance s n).len = s.len := rfl
@[simp] theorem advance_snap : (advance s n).snap = s.snap := rfl
@[simp] theorem advance_mem : (advance s n).mem = s.mem := rfl
@[simp] theorem advance_devices : (advance s n).devices = s.devices := rfl
@[simp] theorem advance_disturbed : (advance s n).disturbed = s.disturbed := rfl
@[simp] theorem advance_unitNo : (advance s n).unitNo = s.unitNo := rfl
@[simp] theorem advance_draws : (advance s n).draws = s.draws := rfl
@[simp] theorem advance_port : (advance s n).port = s.port := rfl
@[simp] theorem advance_inputs : (advance s n).inputs = s.inputs := rfl
end

/-! ### Response -/

section
variable (s : State LEN_W ADDR_W KMAX) (v : Result) (ill uef : Bool)
@[simp] theorem respond_base : (respond s v ill uef).base = s.base := rfl
@[simp] theorem respond_len : (respond s v ill uef).len = s.len := rfl
@[simp] theorem respond_pos : (respond s v ill uef).pos = s.pos := rfl
@[simp] theorem respond_snap : (respond s v ill uef).snap = s.snap := rfl
@[simp] theorem respond_mem : (respond s v ill uef).mem = s.mem := rfl
@[simp] theorem respond_devices : (respond s v ill uef).devices = s.devices := rfl
@[simp] theorem respond_disturbed : (respond s v ill uef).disturbed = s.disturbed := rfl
@[simp] theorem respond_unitNo : (respond s v ill uef).unitNo = s.unitNo := rfl
@[simp] theorem respond_draws : (respond s v ill uef).draws = s.draws := rfl
@[simp] theorem respond_port : (respond s v ill uef).port = s.port := rfl
@[simp] theorem respond_inputs : (respond s v ill uef).inputs = s.inputs := rfl
@[simp] theorem respond_response :
    (respond s v ill uef).response = some { result := v, st := statusWord ill (negFlag s) uef } := rfl
end

/-! ### Stream -/

/-- R43. -/
theorem streamBit_of_le {s : State LEN_W ADDR_W KMAX} {p : Nat} (h : s.len.toNat ≤ p) : streamBit s p = false := by simp [streamBit, h]

theorem lt_len_of_streamBit {s : State LEN_W ADDR_W KMAX} {p : Nat} (h : streamBit s p = true) : p < s.len.toNat := by
  by_contra hp
  rw [streamBit_of_le (by omega)] at h
  cases h

/-- A stream bit depends on `BASE`, `LEN`, the unstable addresses, the index of the free values, and one byte of the
buffer. -/
theorem streamBit_congr {s t : State LEN_W ADDR_W KMAX} {p : Nat} (hb : t.base = s.base) (hl : t.len = s.len)
    (hd : t.devices = s.devices) (hx : t.disturbed = s.disturbed) (hu : t.unitNo = s.unitNo)
    (hn : t.draws = s.draws)
    (hm : p < s.len.toNat → t.mem.read (byteAddr s p).toNat = s.mem.read (byteAddr s p).toNat) :
    streamBit t p = streamBit s p := by
  have ha : byteAddr t p = byteAddr s p := by simp [byteAddr, hb]
  by_cases h : s.len.toNat ≤ p
  · rw [streamBit_of_le h, streamBit_of_le (by rw [hl]; exact h)]
  · simp [streamBit, unstable, memRead, ha, hl, hd, hx, hu, hn, hm (by omega)]

@[simp] theorem readStream_zero (s : State LEN_W ADDR_W KMAX) (p : Nat) : readStream s p 0 = 0 := rfl

theorem readStream_lt (s : State LEN_W ADDR_W KMAX) (p n : Nat) : readStream s p n < 2 ^ n := by
  induction n with
  | zero => simp
  | succ n ih =>
    have := Bool.toNat_le (streamBit s (p + n))
    simp only [readStream, Nat.pow_succ]; omega

/-- Two states that give the same bits give the same value. -/
theorem readStream_congr {s t : State LEN_W ADDR_W KMAX} {p q n : Nat} (h : ∀ i < n, streamBit t (q + i) = streamBit s (p + i)) :
    readStream t q n = readStream s p n := by
  induction n with
  | zero => rfl
  | succ n ih => simp only [readStream, ih fun i hi => h i (by omega), h n (by omega)]

theorem streamBit_advance (s : State LEN_W ADDR_W KMAX) (n p : Nat) : streamBit (advance s n) p = streamBit s p :=
  streamBit_congr rfl rfl rfl rfl rfl rfl fun _ => rfl

theorem readStream_advance (s : State LEN_W ADDR_W KMAX) (k p n : Nat) : readStream (advance s k) p n = readStream s p n :=
  readStream_congr fun _ _ => streamBit_advance _ _ _

/-- R44. -/
theorem inBuffer_iff {s : State LEN_W ADDR_W KMAX} {a : Addr ADDR_W} :
    inBuffer s a = true ↔ (a - s.base).toNat < (s.len.toNat + 7) / 8 := decide_eq_true_iff

/-- R47, R49. -/
theorem unstable_iff {s : State LEN_W ADDR_W KMAX} {a : Addr ADDR_W} :
    unstable s a = true ↔ a.toNat ∈ s.devices ∨ a.toNat ∈ s.disturbed := decide_eq_true_iff

/-- R45: the address of a position, counted from `BASE`. -/
theorem byteAddr_sub_base (s : State LEN_W ADDR_W KMAX) (p : Nat) :
    byteAddr s p - s.base = BitVec.ofNat ADDR_W (p / 8) := by
  rw [byteAddr, BitVec.ofNat_add, BitVec.ofNat_toNat, BitVec.setWidth_eq, BitVec.add_comm,
    BitVec.add_sub_cancel]

/-- R44: a byte that holds a stream position of the buffer is one of the buffer's bytes. -/
theorem inBuffer_byteAddr {s : State LEN_W ADDR_W KMAX} {p : Nat} (h : p < s.len.toNat) :
    inBuffer s (byteAddr s p) = true := by
  rw [inBuffer_iff, byteAddr_sub_base, BitVec.toNat_ofNat]
  exact lt_of_le_of_lt (Nat.mod_le _ _) (by omega)

/-! ### Exp-Golomb decode -/

theorem uePrefixFrom_eq_some {s : State LEN_W ADDR_W KMAX} {fuel k n : Nat} :
    uePrefixFrom s fuel k = some n ↔
      k ≤ n ∧ n < k + fuel ∧ streamBit s (s.pos.toNat + n) = true ∧
        ∀ j, k ≤ j → j < n → streamBit s (s.pos.toNat + j) = false := by
  induction fuel generalizing k with
  | zero => simp only [uePrefixFrom]; constructor <;> [intro h; rintro ⟨h₁, h₂, -⟩] <;> [cases h; omega]
  | succ fuel ih =>
    simp only [uePrefixFrom]
    split
    next h =>
      constructor
      · intro h'; cases h'
      · rintro ⟨h₁, -, h₂, -⟩
        have := lt_len_of_streamBit h₂
        omega
    next h =>
      split
      next hb =>
        constructor
        · intro e
          cases e
          exact ⟨le_refl _, by omega, hb, fun j h₁ h₂ => by omega⟩
        · rintro ⟨h₁, h₂, -, h₄⟩
          rcases Nat.eq_or_lt_of_le h₁ with rfl | h₁
          · rfl
          · rw [h₄ k (le_refl _) h₁] at hb; cases hb
      next hb =>
        rw [ih]
        constructor
        · rintro ⟨h₁, h₂, h₃, h₄⟩
          refine ⟨by omega, by omega, h₃, fun j hj hn => ?_⟩
          rcases Nat.eq_or_lt_of_le hj with rfl | hj
          · simpa using hb
          · exact h₄ j hj hn
        · rintro ⟨h₁, h₂, h₃, h₄⟩
          refine ⟨?_, by omega, h₃, fun j hj hn => h₄ j (by omega) hn⟩
          rcases Nat.eq_or_lt_of_le h₁ with rfl | h₁
          · exact absurd h₃ hb
          · exact h₁

/-- R101: the scan succeeds with `k` exactly when the cursor stands before `k ≤ KMAX` zeros and a one. (A one at a
position says that the position is in the buffer, since the fill is 0.) -/
theorem uePrefix_eq_some {s : State LEN_W ADDR_W KMAX} {k : Nat} :
    uePrefix s = some k ↔
      k ≤ KMAX ∧ streamBit s (s.pos.toNat + k) = true ∧ ∀ j < k, streamBit s (s.pos.toNat + j) = false := by
  rw [uePrefix, uePrefixFrom_eq_some]
  constructor
  · rintro ⟨-, h₂, h₃, h₄⟩; exact ⟨by omega, h₃, fun j hj => h₄ j (by omega) hj⟩
  · rintro ⟨h₂, h₃, h₄⟩; exact ⟨by omega, by omega, h₃, fun j _ hj => h₄ j hj⟩

/-- R101: the scan fails exactly when the `KMAX + 1` positions from the cursor on hold no one of the buffer. -/
theorem uePrefix_eq_none {s : State LEN_W ADDR_W KMAX} :
    uePrefix s = none ↔ ∀ j ≤ KMAX, streamBit s (s.pos.toNat + j) = false := by
  constructor
  · intro h
    by_contra hex
    push Not at hex
    obtain ⟨j, hj, hb⟩ := hex
    have hb' : streamBit s (s.pos.toNat + j) = true := by simpa using hb
    classical
    have hP : ∃ k, streamBit s (s.pos.toNat + k) = true := ⟨j, hb'⟩
    have := (uePrefix_eq_some (s := s) (k := Nat.find hP)).2
      ⟨le_trans (Nat.find_le hb') hj, Nat.find_spec hP, fun i hi => by simpa using Nat.find_min hP hi⟩
    rw [h] at this
    cases this
  · intro h
    cases hu : uePrefix s with
    | none => rfl
    | some k =>
      obtain ⟨hk, hb, -⟩ := uePrefix_eq_some.1 hu
      rw [h k hk] at hb
      cases hb

/-- R102: the decode of a codeword with `k` leading zeros, the suffix read from the machine as it was. -/
theorem ueDecode_of_some {s : State LEN_W ADDR_W KMAX} {k : Nat} (h : uePrefix s = some k) :
    ueDecode s = (some (2 ^ k - 1 + readStream s (s.pos.toNat + k + 1) k), advance (advance s (k + 1)) k) := by
  obtain ⟨hk, hb, -⟩ := uePrefix_eq_some.1 h
  have := lt_len_of_streamBit hb
  have := s.len.isLt
  have hp : (advance s (k + 1)).pos.toNat = s.pos.toNat + k + 1 := by rw [advance_pos_toNat, Nat.pow_succ]; omega
  simp only [ueDecode, h, hp, readStream_advance]

/-- R105: a failed decode gives no value and puts the cursor past the end. -/
theorem ueDecode_of_none {s : State LEN_W ADDR_W KMAX} (h : uePrefix s = none) : ueDecode s = (none, ueFail s) := by
  simp only [ueDecode, h]

/-- R102: the cursor after a decode that succeeded, which never saturates. -/
theorem advance_advance_pos_toNat {s : State LEN_W ADDR_W KMAX} {k : Nat} (h : uePrefix s = some k) :
    (advance (advance s (k + 1)) k).pos.toNat = s.pos.toNat + 2 * k + 1 := by
  obtain ⟨hk, hb, -⟩ := uePrefix_eq_some.1 h
  have := lt_len_of_streamBit hb
  have := s.len.isLt
  rw [advance_pos_toNat, advance_pos_toNat, Nat.pow_succ]; omega

theorem ueFail_pos_toNat (s : State LEN_W ADDR_W KMAX) :
    (ueFail s).pos.toNat = min (max s.pos.toNat s.len.toNat + 1) (2 ^ (LEN_W + 1) - 1) := by
  rw [ueFail_pos, saturate_toNat]

/-- R104, for any bound on the prefix. -/
theorem two_pow_add_readStream_le (s : State LEN_W ADDR_W KMAX) (p : Nat) {k n : Nat} (hk : k ≤ n) :
    2 ^ k - 1 + readStream s p k ≤ 2 ^ (n + 1) - 2 := by
  have h₁ := readStream_lt s p k
  have h₂ : 2 ^ k ≤ 2 ^ n := Nat.pow_le_pow_right (by omega) hk
  rw [Nat.pow_succ]
  omega

/-- R104: the value of a decode fits 32 bits and is not the sentinel. -/
theorem two_pow_add_readStream_lt (s : State LEN_W ADDR_W KMAX) (p : Nat) {k : Nat} (hk : k ≤ 31) :
    2 ^ k - 1 + readStream s p k ≤ 2 ^ 32 - 2 := two_pow_add_readStream_le s p hk

theorem seMap_odd (m : Nat) : seMap (2 * m + 1) = m + 1 := by simp [seMap]; omega

theorem seMap_even (m : Nat) : seMap (2 * m) = -(m : Int) := by simp [seMap]

end Sys2Proof.Machine
end

