-- ==== Sys2Proof/Laws/Exec.lean ====
section
/-! SUPPORT. Each meaning as the one next state it answers; what every command leaves alone. -/

namespace Sys2Proof.Machine

open Sys2Proof

theorem exec_init (s : State) :
    exec .init s = .next (respond (startSession s s.port.argA s.port.argB) 0 false false) := rfl

theorem exec_readBits {n : BitVec 6} (hn : n.toNat ≤ 32) (s : State) :
    exec (.readBits n) s =
      .next (respond (nextDraw (advance s n.toNat)) (resultUnsigned (readStream s s.pos.toNat n.toNat)) false false) := by
  simp [exec, execReadBits, fieldWidth, hn]

theorem exec_readBits_illegal {n : BitVec 6} (hn : 32 < n.toNat) (s : State) :
    exec (.readBits n) s = .next (illegalCommand s) := by
  simp [exec, execReadBits, fieldWidth, show ¬ n.toNat ≤ 32 by omega]

theorem exec_skipBits (s : State) :
    exec .skipBits s = .next (respond (advance s s.port.argB.toNat) 0 false false) := rfl

theorem exec_readUe_of_some {s : State} {k : Nat} (h : uePrefix s = some k) :
    exec .readUe s =
      .next (respond (nextDraw (advance (advance s (k + 1)) k))
        (resultUnsigned (2 ^ k - 1 + readStream s (s.pos.toNat + k + 1) k)) false false) := by
  simp only [exec, execReadUe, ueDecode_of_some h]

theorem exec_readUe_of_none {s : State} (h : uePrefix s = none) :
    exec .readUe s = .next (respond (nextDraw (ueFail s)) (resultUnsigned ueSentinel) false true) := by
  simp only [exec, execReadUe, ueDecode_of_none h]

theorem exec_readSe_of_some {s : State} {k : Nat} (h : uePrefix s = some k) :
    exec .readSe s =
      .next (respond (nextDraw (advance (advance s (k + 1)) k))
        (resultSigned (seMap (2 ^ k - 1 + readStream s (s.pos.toNat + k + 1) k))) false false) := by
  simp only [exec, execReadSe, ueDecode_of_some h]

theorem exec_readSe_of_none {s : State} (h : uePrefix s = none) :
    exec .readSe s = .next (respond (nextDraw (ueFail s)) (resultSigned seSentinel) false true) := by
  simp only [exec, execReadSe, ueDecode_of_none h]

theorem exec_bitsLeft (s : State) :
    exec .bitsLeft s = .next (respond s (resultBitsLeft 32 (bitsLeft s)) false false) := rfl

theorem exec_snap (s : State) : exec .snap s = .next (respond (s.setSnap s.pos) 0 false false) := rfl

theorem exec_restore (s : State) : exec .restore s = .next (respond (s.setPos s.snap) 0 false false) := rfl

/-- Every command is enabled in every state (R140, R145): it answers a next state, which is the end of a command. -/
theorem exec_eq_respond (i : Instr) (s : State) :
    ∃ t v ill uef, exec i s = .next (respond t v ill uef) ∧ t.mem = s.mem ∧ t.devices = s.devices ∧
      t.port = s.port ∧ t.inputs = s.inputs ∧ t.unitNo = s.unitNo := by
  cases i with
  | init => exact ⟨_, _, _, _, exec_init s, rfl, rfl, rfl, rfl, rfl⟩
  | readBits n =>
    rcases Nat.lt_or_ge 32 n.toNat with hn | hn
    · exact ⟨s, _, _, _, exec_readBits_illegal hn s, rfl, rfl, rfl, rfl, rfl⟩
    · exact ⟨_, _, _, _, exec_readBits hn s, rfl, rfl, rfl, rfl, rfl⟩
  | skipBits => exact ⟨_, _, _, _, exec_skipBits s, rfl, rfl, rfl, rfl, rfl⟩
  | readUe =>
    cases h : uePrefix s with
    | none => exact ⟨_, _, _, _, exec_readUe_of_none h, rfl, rfl, rfl, rfl, rfl⟩
    | some k => exact ⟨_, _, _, _, exec_readUe_of_some h, rfl, rfl, rfl, rfl, rfl⟩
  | readSe =>
    cases h : uePrefix s with
    | none => exact ⟨_, _, _, _, exec_readSe_of_none h, rfl, rfl, rfl, rfl, rfl⟩
    | some k => exact ⟨_, _, _, _, exec_readSe_of_some h, rfl, rfl, rfl, rfl, rfl⟩
  | bitsLeft => exact ⟨s, _, _, _, exec_bitsLeft s, rfl, rfl, rfl, rfl, rfl⟩
  | snap => exact ⟨_, _, _, _, exec_snap s, rfl, rfl, rfl, rfl, rfl⟩
  | restore => exact ⟨_, _, _, _, exec_restore s, rfl, rfl, rfl, rfl, rfl⟩

end Sys2Proof.Machine
end

