-- ==== Sys2Proof/Laws/PerInstr.lean ====
section
/-! SUPPORT. The families of statements made per instruction. -/

namespace Sys2Proof.Laws

open Sys2Proof

/-- R63: the word of an instruction is legal exactly when the instruction is well formed. -/
def LegalWord.Statement (i : Instr) : Prop := legal (encode i) = i.wellFormed

theorem LegalWord.init : LegalWord.Statement .init := by unfold LegalWord.Statement; decide
theorem LegalWord.readBits (n : BitVec 6) : LegalWord.Statement (.readBits n) := by
  simp [LegalWord.Statement, legal, opField_encode, rsvField_encode, widthField_encode, opCode, widthCode,
    Instr.wellFormed]
theorem LegalWord.skipBits : LegalWord.Statement .skipBits := by unfold LegalWord.Statement; decide
theorem LegalWord.readUe : LegalWord.Statement .readUe := by unfold LegalWord.Statement; decide
theorem LegalWord.readSe : LegalWord.Statement .readSe := by unfold LegalWord.Statement; decide
theorem LegalWord.bitsLeft : LegalWord.Statement .bitsLeft := by unfold LegalWord.Statement; decide
theorem LegalWord.snap : LegalWord.Statement .snap := by unfold LegalWord.Statement; decide
theorem LegalWord.restore : LegalWord.Statement .restore := by unfold LegalWord.Statement; decide

end Sys2Proof.Laws
end

