-- ==== Sys2Proof/Laws/Step.lean ====
section
/-! SUPPORT. What one step can do, once; the other inputs; runs. -/

namespace Sys2Proof.Machine

open Sys2Proof

/-- The dispatch at the default parameters is that of any parameters. -/
theorem execAt_default (i : Instr) (s : State) : execAt i s = exec i s := by cases i <;> rfl

/-- I11: the machine of the fixed names is the machine of the parameters at their defaults. -/
theorem bregAt_default : bregAt Config.LEN_W Config.ADDR_W Config.KMAX = core := rfl

/-- Everything a step can do when it answers a next state. -/
theorem step_cases {s t : State} (h : step s = .next t) :
    (s.inputs = [] ∧ t = s)
    ∨ (∃ r rest i, s.inputs = .command r :: rest ∧ decode r.cmd = .ok i ∧ exec i (accept s r rest) = .next t)
    ∨ (∃ r rest e, s.inputs = .command r :: rest ∧ decode r.cmd = .error e ∧ t = illegalCommand (accept s r rest))
    ∨ (∃ a b rest, s.inputs = .memWrite a b :: rest ∧ t = hostWrite (s.setInputs rest) a b)
    ∨ (∃ a rest, s.inputs = .mapDevice a :: rest ∧ t = mapDevice (s.setInputs rest) a)
    ∨ (∃ rest, s.inputs = .reset :: rest ∧ t = externalReset (s.setInputs rest)) := by
  unfold step stepBy at h
  split at h
  case h_1 hi => cases h; exact .inl ⟨hi, rfl⟩
  case h_2 r rest hi =>
    split at h
    case h_1 i hd => exact .inr (.inl ⟨r, rest, i, hi, hd, h⟩)
    case h_2 e hd => cases h; exact .inr (.inr (.inl ⟨r, rest, e, hi, hd, rfl⟩))
  case h_3 => cases h
  case h_4 a b rest hi => cases h; exact .inr (.inr (.inr (.inl ⟨a, b, rest, hi, rfl⟩)))
  case h_5 a rest hi => cases h; exact .inr (.inr (.inr (.inr (.inl ⟨a, rest, hi, rfl⟩))))
  case h_6 rest hi => cases h; exact .inr (.inr (.inr (.inr (.inr ⟨rest, hi, rfl⟩))))

/-- The command input whose word decodes. -/
theorem instr?_command {r : Request} {i : Instr} (h : decode r.cmd = .ok i) : (Input.command r).instr? = some i := by
  simp [Input.instr?, h]

section
variable (s : State) (a : Addr) (b : Byte)
@[simp] theorem hostWrite_base : (hostWrite s a b).base = s.base := by simp only [hostWrite]; split <;> rfl
@[simp] theorem hostWrite_len : (hostWrite s a b).len = s.len := by simp only [hostWrite]; split <;> rfl
@[simp] theorem hostWrite_pos : (hostWrite s a b).pos = s.pos := by simp only [hostWrite]; split <;> rfl
@[simp] theorem hostWrite_snap : (hostWrite s a b).snap = s.snap := by simp only [hostWrite]; split <;> rfl
@[simp] theorem hostWrite_mem : (hostWrite s a b).mem = s.mem.write a.toNat b := by simp only [hostWrite]; split <;> rfl
@[simp] theorem hostWrite_devices : (hostWrite s a b).devices = s.devices := by simp only [hostWrite]; split <;> rfl
@[simp] theorem hostWrite_unitNo : (hostWrite s a b).unitNo = s.unitNo := by simp only [hostWrite]; split <;> rfl
@[simp] theorem hostWrite_draws : (hostWrite s a b).draws = s.draws := by simp only [hostWrite]; split <;> rfl
@[simp] theorem hostWrite_port : (hostWrite s a b).port = s.port := by simp only [hostWrite]; split <;> rfl
@[simp] theorem hostWrite_response : (hostWrite s a b).response = s.response := by simp only [hostWrite]; split <;> rfl
@[simp] theorem hostWrite_inputs : (hostWrite s a b).inputs = s.inputs := by simp only [hostWrite]; split <;> rfl

@[simp] theorem inBuffer_hostWrite (x : Addr) : inBuffer (hostWrite s a b) x = inBuffer s x := by
  simp only [hostWrite]; split <;> rfl

/-- R49: the write disturbs its byte exactly when the byte is in the buffer. -/
theorem mem_hostWrite_disturbed {x : Nat} :
    x ∈ (hostWrite s a b).disturbed ↔ (inBuffer s a = true ∧ x = a.toNat) ∨ x ∈ s.disturbed := by
  simp only [hostWrite]; split <;> simp_all
end

/-- A step takes the oldest input and leaves the rest. -/
theorem step_inputs {s t : State} (h : step s = .next t) : t.inputs = s.inputs.tail := by
  rcases step_cases h with ⟨hi, rfl⟩ | ⟨r, rest, i, hi, -, he⟩ | ⟨r, rest, e, hi, -, rfl⟩ | ⟨a, b, rest, hi, rfl⟩ |
    ⟨a, rest, hi, rfl⟩ | ⟨rest, hi, rfl⟩
  · simp [hi]
  · obtain ⟨u, v, ill, uef, hu, -, -, -, hin, -⟩ := exec_eq_respond i (accept s r rest)
    rw [hu] at he
    cases he
    rw [hi, respond_inputs, hin]
    rfl
  · rw [hi]; rfl
  · simp [hi]
  · rw [hi]; rfl
  · rw [hi]; rfl

theorem run_zero (s : State) : run 0 s = .next s := rfl

theorem run_succ {k : Nat} {s t : State} (h : run (k + 1) s = .next t) :
    ∃ u, step s = .next u ∧ run k u = .next t := by
  simp only [run, Host.Core.run] at h
  split at h
  next u hu => exact ⟨u, hu, h⟩
  all_goals cases h

theorem run_succ_of_step {k : Nat} {s u : State} (h : step s = .next u) : run (k + 1) s = run k u := by
  have h' : core.step s = .next u := h
  simp only [run, Host.Core.run]
  rw [h']

/-- An induction over a run, packaged once: what every step keeps, under a condition on the input it takes, a run keeps. -/
theorem run_keeps {P : State → Prop} {Q : Input → Prop}
    (hstep : ∀ s t x rest, P s → s.inputs = x :: rest → Q x → step s = .next t → P t)
    {k : Nat} {s t : State} (hrun : run k s = .next t) (hs : P s) (hq : ∀ x ∈ s.inputs.take k, Q x) : P t := by
  induction k generalizing s with
  | zero => cases hrun; exact hs
  | succ k ih =>
    obtain ⟨u, hu, hrun⟩ := run_succ hrun
    have hin := step_inputs hu
    cases hi : s.inputs with
    | nil =>
      have : u = s := by
        have h := hu
        unfold step stepBy at h
        rw [hi] at h
        cases h
        rfl
      exact ih hrun (this ▸ hs) (by rw [hin, hi]; simp)
    | cons x rest =>
      rw [hi] at hq hin
      exact ih hrun (hstep s u x rest hs hi (hq x (by simp)) hu)
        (by rw [hin]; exact fun y hy => hq y (by simp only [List.take_succ_cons, List.mem_cons]; exact .inr hy))

end Sys2Proof.Machine
end

