-- ==== Sys2Proof/Laws/Pseudo.lean ====
section
/-! SUPPORT. A transaction the assembler issues runs its command, and a host program goes on with its response. -/

namespace Sys2Proof.Machine

open Sys2Proof

/-- A transaction whose word decodes runs that command, the host's later inputs left as they are. -/
theorem transact_of_decode {c : AsmCmd} {i : Instr} (s : State) (h : decode c.request.cmd = .ok i) :
    transact c s = exec i (accept s c.request s.inputs) := by
  simp only [transact, stepAt, stepBy, State.setInputs_inputs, h, execAt_default]; rfl

theorem transact_init (s : State) (b : Addr) (l : BitLen) :
    transact (.init b l) s = exec .init (accept s (AsmCmd.init b l).request s.inputs) :=
  transact_of_decode s (show decode (encode .init) = .ok .init by decide)

theorem transact_readBits (s : State) {n : BitVec 6} (h : n.toNat ≤ 32) :
    transact (.readBits n) s = exec (.readBits n) (accept s (AsmCmd.readBits n).request s.inputs) :=
  transact_of_decode s (decode_eq_ok.2
    ⟨opField_encode _, rsvField_encode _, widthField_encode _, wellFormed_readBits.2 h⟩)

theorem transact_skipBits (s : State) (c : BitLen) :
    transact (.skipBits c) s = exec .skipBits (accept s (AsmCmd.skipBits c).request s.inputs) :=
  transact_of_decode s (show decode (encode .skipBits) = .ok .skipBits by decide)

theorem transact_readUe (s : State) :
    transact .readUe s = exec .readUe (accept s AsmCmd.readUe.request s.inputs) :=
  transact_of_decode s (show decode (encode .readUe) = .ok .readUe by decide)

theorem transact_bitsLeft (s : State) :
    transact .bitsLeft s = exec .bitsLeft (accept s AsmCmd.bitsLeft.request s.inputs) :=
  transact_of_decode s (show decode (encode .bitsLeft) = .ok .bitsLeft by decide)

@[simp] theorem HostProg.run_done (v : Int) (s : State) : (HostProg.done v : HostProg).run s = some (v, s) := rfl

/-- A program that issues a command goes on, in the machine after it, with the command's response. -/
theorem HostProg.run_issue {c : AsmCmd} {k : Response → HostProg} {s t : State} {r : Response}
    (h : transact c s = .next t) (hr : t.response = some r) : (HostProg.issue c k).run s = (k r).run t := by
  simp only [HostProg.run, h, hr]

end Sys2Proof.Machine
end

