-- ==== Sys2Proof/Laws/Stream.lean ====
section
/-! SUPPORT. The stream in an undisturbed session: its bits depend on the registers and the buffer's bytes alone. -/

namespace Sys2Proof.Machine

open Sys2Proof

variable {LEN_W ADDR_W KMAX : Nat}

theorem inBuffer_congr {s t : State LEN_W ADDR_W KMAX} (hb : t.base = s.base) (hl : t.len = s.len) (a : Addr ADDR_W) :
    inBuffer t a = inBuffer s a := by
  rw [Bool.eq_iff_iff, inBuffer_iff, inBuffer_iff, hb, hl]

theorem undisturbed_congr {s t : State LEN_W ADDR_W KMAX} (hb : t.base = s.base) (hl : t.len = s.len) (hd : t.devices = s.devices)
    (hx : t.disturbed = s.disturbed) (h : Undisturbed s) : Undisturbed t := by
  intro a ha
  rw [inBuffer_congr hb hl]
  exact h a (by rwa [hd, hx] at ha)

/-- R47, R49: the host's duty kept, no byte of the buffer is unstable. -/
theorem unstable_of_undisturbed {s : State LEN_W ADDR_W KMAX} (h : Undisturbed s) {a : Addr ADDR_W} (ha : inBuffer s a = true) :
    unstable s a = false := by
  by_contra hc
  have hmem := unstable_iff.1 (by simpa using hc : unstable s a = true)
  have := h a.toNat (List.mem_append.2 hmem)
  rw [BitVec.ofNat_toNat, BitVec.setWidth_eq, ha] at this
  cases this

/-- R32: in undisturbed sessions the stream is a function of `BASE`, `LEN` and the buffer's bytes. -/
theorem streamBit_congr_of_undisturbed {s t : State LEN_W ADDR_W KMAX} (hs : Undisturbed s) (ht : Undisturbed t) (hb : t.base = s.base)
    (hl : t.len = s.len) (hm : ∀ a, inBuffer s a = true → memRead t a = memRead s a) (p : Nat) :
    streamBit t p = streamBit s p := by
  by_cases h : s.len.toNat ≤ p
  · rw [streamBit_of_le h, streamBit_of_le (by rw [hl]; exact h)]
  · have ha := inBuffer_byteAddr (show p < s.len.toNat by omega)
    have e : byteAddr t p = byteAddr s p := by rw [byteAddr, byteAddr, hb]
    have hs' := unstable_of_undisturbed hs ha
    have ht' := unstable_of_undisturbed ht (by rw [inBuffer_congr hb hl]; exact ha)
    simp [streamBit, hl, e, hs', ht', hm _ ha]

/-- R56: a value is assembled from the values of its parts. -/
theorem readStream_add (s : State LEN_W ADDR_W KMAX) (p a b : Nat) :
    readStream s p (a + b) = readStream s p a * 2 ^ b + readStream s (p + a) b := by
  induction b with
  | zero => simp
  | succ b ih => rw [← Nat.add_assoc, readStream, ih, readStream, pow_succ, Nat.add_assoc p a b]; ring

/-- R43: past the end there is nothing but fill. -/
theorem readStream_of_le {s : State LEN_W ADDR_W KMAX} {p : Nat} (h : s.len.toNat ≤ p) (n : Nat) : readStream s p n = 0 := by
  induction n with
  | zero => rfl
  | succ n ih => simp [readStream, ih, streamBit_of_le (show s.len.toNat ≤ p + n by omega)]

end Sys2Proof.Machine
end

