-- ==== Sys2Proof/Tests/Slice0.lean ====
section
/-! SUPPORT. Tests: expected values come from spec/ (95_test_vectors.md, its tables named in each docstring, or a rule),
none from the model. Then, for each statement with hypotheses, states and operands that meet them together. -/

namespace Sys2Proof.Tests

open Sys2Proof Sys2Proof.Machine

/-! ### Helpers -/

/-- A session over a buffer at 0x1000; a byte that is 0 is left unlisted. -/
def session (bytes : List Byte) (len : BitLen) (pos snap : Cursor) : State :=
  { State.reset with
    base := 0x1000, len := len, pos := pos, snap := snap
    mem := (bytes.zipIdx.filter fun c => c.1 ≠ 0).map fun c => (0x1000 + c.2, c.1) }

/-- The state with operands on the ports. -/
def withArgs (s : State) (a : Addr) (b : BitLen) : State := s.setPort { cmd := 0, argA := a, argB := b }

/-- What the tables of 95_test_vectors.md show: `RESULT`, `ST`, `POS` and the remaining bits. -/
def shown : Host.Outcome State Fault Refusal → Option (Result × BitVec 3 × Nat × Int)
  | .next t => t.response.map fun r => (r.result, r.st, t.pos.toNat, bitsLeft t)
  | .fault _ => none
  | .refused _ => none

/-- The four registers of a next state. -/
def registers : Host.Outcome State Fault Refusal → Option (Addr × BitLen × Cursor × Cursor)
  | .next t => some (t.base, t.len, t.pos, t.snap)
  | .fault _ => none
  | .refused _ => none

/-- The state whose next input is a command of this word. -/
def issuing (s : State) (w : CmdWord) : State := s.setInputs [.command { cmd := w, argA := 0, argB := 0 }]

/-! ### Well-formedness -/

/-- R63: the ill-formed term of the one check, and its word. -/
theorem test_wellFormed_refuses_width_33 :
    (Instr.readBits 33).wellFormed = false ∧ decode (encode (.readBits 33)) = .error .widthTooLarge := by decide

theorem test_wellFormed_refuses_width_63 :
    (Instr.readBits 63).wellFormed = false ∧ decode (encode (.readBits 63)) = .error .widthTooLarge := by decide

theorem test_wellFormed_accepts_width_32 : (Instr.readBits 32).wellFormed = true := by decide

/-! ### Decoding: `OP` 4 bits, `RSV` 22 bits, `N` 6 bits (R61, R62) -/

theorem test_decode_init : decode 0b0001_0000000000000000000000_000000#32 = .ok .init := by decide
theorem test_decode_readBits_0 : decode 0b0010_0000000000000000000000_000000#32 = .ok (.readBits 0) := by decide
theorem test_decode_readBits_21 : decode 0b0010_0000000000000000000000_010101#32 = .ok (.readBits 21) := by decide
theorem test_decode_readBits_32 : decode 0b0010_0000000000000000000000_100000#32 = .ok (.readBits 32) := by decide
theorem test_decode_skipBits : decode 0b0011_0000000000000000000000_000000#32 = .ok .skipBits := by decide
theorem test_decode_readUe : decode 0b0100_0000000000000000000000_000000#32 = .ok .readUe := by decide
theorem test_decode_readSe : decode 0b0101_0000000000000000000000_000000#32 = .ok .readSe := by decide
theorem test_decode_bitsLeft : decode 0b0110_0000000000000000000000_000000#32 = .ok .bitsLeft := by decide
theorem test_decode_snap : decode 0b0111_0000000000000000000000_000000#32 = .ok .snap := by decide
theorem test_decode_restore : decode 0b1000_0000000000000000000000_000000#32 = .ok .restore := by decide

/-- R62: every unassigned operation code. -/
theorem test_decode_unassigned : ∀ op : BitVec 4, op = 0 ∨ 9 ≤ op.toNat →
    decode (op ++ 0#28) = .error .unassignedOp := by decide

/-- R63: one reserved bit, at each end of `RSV`. -/
theorem test_decode_reserved :
    decode 0b0110_1000000000000000000000_000000#32 = .error .reservedBits
      ∧ decode 0b0010_0000000000000000000001_000000#32 = .error .reservedBits := by decide

/-- R63: a width where the operation has none. -/
theorem test_decode_stray : decode 0b1000_0000000000000000000000_100000#32 = .error .strayWidth := by decide

/-- The table's numbering is the command word's own (one 32-bit word). -/
theorem test_decodeTableWord :
    decodeTableWord 32 0x20000014 = some (.readBits 20) ∧ decodeTableWord 32 0x90000000 = none := by decide

/-- The word that `withFetchWord` places is the one that the next step runs (FW4, step 3). -/
theorem test_withFetchWord :
    shown (step ((session [0xFF] 8 12 0).withFetchWord 32 0x60000000)) = some (0xFFFFFFFFFFFFFFFC, 0b010#3, 12, -4) := by
  decide

/-! ### The commands -/

/-- FW5, step 4. -/
theorem test_init : let s := withArgs (session [0xFF, 0xFF] 5 8 3) 0x1000 13
    shown (exec .init s) = some (0, 0b000#3, 0, 13) ∧ registers (exec .init s) = some (0x1000, 13, 0, 0) := by decide

/-- FW2, step 6: 32 bits, unaligned. -/
theorem test_readBits_unaligned :
    shown (exec (.readBits 32) (session [0xDE, 0xAD, 0xBE, 0xEF, 0x5A] 40 4 0)) = some (0xEADBEEF5, 0b000#3, 36, 4) := by
  decide

/-- FW5, step 5: a length that is no multiple of 8, past the end. -/
theorem test_readBits_past_the_end :
    shown (exec (.readBits 16) (session [0xFF, 0xFF] 13 0 0)) = some (0xFFF8, 0b010#3, 16, -3) := by decide

/-- FW7, step 3. -/
theorem test_skipBits :
    shown (exec .skipBits (withArgs (session [0, 0, 0, 0, 0, 0x1F] 48 0 0) 0 43)) = some (0, 0b000#3, 43, 5) := by decide

/-- FW8, step 5: the cursor saturates. -/
theorem test_skipBits_saturates :
    shown (exec .skipBits (withArgs (session [] 0 8589934590 0) 0 0xFFFFFFFF))
      = some (0, 0b010#3, 8589934591, -8589934591) := by decide

/-- EG1, step 5: codeword `00111`. -/
theorem test_readUe : shown (exec .readUe (session [0xA6, 0x43, 0x88] 24 12 0)) = some (6, 0b000#3, 17, 7) := by decide

/-- EG3, step 2: 32 zeros in the buffer. -/
theorem test_readUe_failure :
    shown (exec .readUe (session [0, 0, 0, 0, 0x80] 40 0 0)) = some (0xFFFFFFFF, 0b110#3, 41, -1) := by decide

/-- EG7, step 6: `-2`. -/
theorem test_readSe :
    shown (exec .readSe (session [0xA6, 0x42, 0x80] 24 12 0)) = some (0xFFFFFFFFFFFFFFFE, 0b000#3, 17, 7) := by decide

/-- EG9, step 2. -/
theorem test_readSe_failure :
    shown (exec .readSe (session [] 8 0 0)) = some (0xFFFFFFFF80000000, 0b110#3, 9, -1) := by decide

/-- FW8, step 6: the most negative remaining bits. -/
theorem test_bitsLeft :
    shown (exec .bitsLeft (session [] 0 8589934591 0)) = some (0xFFFFFFFE00000001, 0b010#3, 8589934591, -8589934591) := by
  decide

/-- CS3, step 3: a snapshot of an overread cursor. -/
theorem test_snap : let s := session [0xAA] 8 12 0
    shown (exec .snap s) = some (0, 0b010#3, 12, -4) ∧ registers (exec .snap s) = some (0x1000, 8, 12, 12) := by decide

/-- CS1, step 7. -/
theorem test_restore : let s := session [0x12, 0x34, 0x56, 0x78, 0x9A, 0xBC, 0xDE, 0xF0] 64 74 10
    shown (exec .restore s) = some (0, 0b000#3, 10, 54) ∧ registers (exec .restore s) = some (0x1000, 64, 10, 10) := by
  decide

/-- ILL1, step 8. -/
theorem test_illegal_word : shown (step (issuing (session [0x5A] 8 12 0) 0x20000040)) = some (0, 0b011#3, 12, -4) := by
  decide

/-- R45: a buffer that wraps past the top of the address space. -/
theorem test_wrapping_buffer :
    let s : State := { session [] 16 0 0 with base := 0xFFFFFFFFFFFFFFFF, mem := [(0, 0x34), (0xFFFFFFFFFFFFFFFF, 0x12)] }
    readStream s 0 16 = 0x1234 := by decide

/-! ### The assembler (R73) -/

/-- R73's forms: a hexadecimal and a decimal number, a result name, a comment, a raw word. -/
theorem test_parse_init :
    parseLine "INIT 0x1000, 16  ; start" = some { name := none, cmd := .init 0x1000 16 } := by decide
theorem test_parse_named :
    parseLine "x = READ_UE" = some { name := some ['x'], cmd := .readUe } := by decide
theorem test_parse_word : parseLine ".word 0x90000000" = some { name := none, cmd := .word 0x90000000 } := by decide
theorem test_parse_refuses_width_33 : parseLine "READ_BITS 33" = none := by decide

/-- Two lines of program P3, which R73 does not cover: a label, and a pseudo-instruction of R74 (log 11). -/
theorem test_listing_label : parseListing "loopT:  x = READ_BITS 8          ; host: type += x"
    = some { label := some "loopT".toList, name := some ['x'], body := .command (.readBits 8) } := by decide
theorem test_listing_pseudo : parseListing "        SKIP_TO 48               ; = b = BITS_LEFT"
    = some { label := none, name := none, body := .pseudo (.skipTo 48) } := by decide

/-! ### Other parameters (I11) -/

/-- D10: "an implementation accepting k = 32 would decode a codeword this spec fails": 32 zeros and a one, then a suffix of
zeros, over EG3's first bytes, give `2^32 − 1` at `KMAX = 32`. -/
theorem test_kmax_32 :
    let s : State 32 64 32 := { State.resetAt 32 64 32 with len := 65, mem := [(4, 0x80)] }
    uePrefix s = some 32 ∧ (ueDecode s).1 = some 4294967295 := by decide

/-- R24 at a `LEN_W` of 4: the cursor saturates at 31. -/
theorem test_lenW_4 : (advance (State.resetAt 4 8 31) 40).pos = 31 := by decide

/-- 95_test_vectors.md, E1: the codeword of 10000. -/
theorem test_codeword_10000 :
    ueCodeword 10000 = [false, false, false, false, false, false, false, false, false, false, false, false, false,
      true, false, false, true, true, true, false, false, false, true, false, false, false, true] := by decide

/-! ### Witnesses: what the hypotheses of each statement ask, met together

Each theorem is named after its statement, and shows the hypotheses only. -/

/-- The sample buffer of FW1. -/
def sample : State := session [0xA5, 0x0F] 16 4 2

/-- A command with its operands, as the host issues it. -/
def issue (w : CmdWord) (a : Addr) (b : BitLen) : Input := .command { cmd := w, argA := a, argB := b }

/-- The sample, with what the host does next. -/
def doing (l : List Input) : State := sample.setInputs l

theorem witness_ResetInputClearsTheRegistersAndKeepsMemory :
    (doing [.reset, issue 0x60000000 0 0]).inputs = .reset :: [issue 0x60000000 0 0] := rfl

theorem witness_CommandsBeforeInitSeeAnEmptyBuffer : (0 : BitVec 6).toNat ≤ 32 ∧ (32 : BitVec 6).toNat ≤ 32 := by decide

theorem witness_DecodeOfEncodeIsTheInstruction :
    (Instr.readBits 0).wellFormed = true ∧ (Instr.readBits 32).wellFormed = true ∧ Instr.restore.wellFormed = true := by
  decide

theorem witness_EncodeOfDecodeIsTheWord :
    decode 0x20000020#32 = .ok (.readBits 32) ∧ decode 0x10000000#32 = .ok .init := by decide

theorem witness_ReadBitsWiderThanThirtyTwoIsIllegal :
    (32 < (33 : BitVec 6).toNat ∧ 32 < (63 : BitVec 6).toNat) ∧
      ∃ s : State, ∃ r rest, r.cmd = encode (.readBits 33) ∧ s.inputs = .command r :: rest :=
  ⟨by decide, doing [.command { cmd := encode (.readBits 33), argA := 0, argB := 0 }], _, [], rfl, rfl⟩

theorem witness_StatusPortLayout :
    (Response.mk 0 0b110#3).st = statusWord false true true ∧ (Response.mk 0 0b001#3).st = statusWord true false false := by
  decide

theorem witness_StepRunsTheDecodedCommand :
    ∃ (s : State) (r : Request) (rest : List Input) (i : Instr), s.inputs = .command r :: rest ∧ decode r.cmd = .ok i :=
  ⟨doing [issue 0x20000004 0 0], _, [], .readBits 4, rfl, by decide⟩

/-- One for each way a word is illegal. -/
theorem witness_IllegalWordChangesNoRegister :
    ∀ w ∈ [0x00000000#32, 0xF0000000#32, 0x20000040#32, 0x80000020#32, 0x2000003F#32],
      (doing [issue w 7 9]).inputs = .command { cmd := w, argA := 7, argB := 9 } :: [] ∧ legal w = false := by
  simp only [List.forall_mem_cons]
  exact ⟨⟨rfl, by decide⟩, ⟨rfl, by decide⟩, ⟨rfl, by decide⟩, ⟨rfl, by decide⟩, ⟨rfl, by decide⟩, by simp⟩

theorem witness_IdleHoldsTheState : sample.inputs = [] := rfl

/-- Both sides of the disjunction. -/
theorem witness_StepStopsOnlyOnOverlappingCommands :
    (∃ t, step (doing [issue 0x60000000 0 0]) = .next t) ∧
      step (doing [.overlap { cmd := 0, argA := 0, argB := 0 } { cmd := 0, argA := 0, argB := 0 }])
        = .refused .overlappingCommands := ⟨⟨_, rfl⟩, rfl⟩

/-- A byte of the buffer, its first and its last, and the byte after it. -/
theorem witness_HostWriteChangesOneByte :
    sample.mem.wf ∧ ∀ a ∈ [0x1000, 0x1001, 0x1002], ∃ rest, (doing [.memWrite a 0x77]).inputs = .memWrite a 0x77 :: rest
      ∧ (inBuffer sample a = true ↔ a ≠ 0x1002) := by
  refine ⟨by decide, fun a ha => ⟨[], rfl, ?_⟩⟩
  simp only [List.mem_cons, List.not_mem_nil, or_false] at ha
  rcases ha with rfl | rfl | rfl <;> decide

theorem witness_BitsOfAnUnstableByteAreFree :
    (∃ t, step (doing [.memWrite 0x1001 0x77]) = .next t ∧ 15 < (doing [.memWrite 0x1001 0x77]).len.toNat
        ∧ byteAddr (doing [.memWrite 0x1001 0x77]) 15 = 0x1001) ∧
      ∃ t, step (doing [.mapDevice 0x1000]) = .next t ∧ 0 < (doing [.mapDevice 0x1000]).len.toNat
        ∧ byteAddr (doing [.mapDevice 0x1000]) 0 = 0x1000 :=
  ⟨⟨_, rfl, by decide, by decide⟩, ⟨_, rfl, by decide, by decide⟩⟩

/-- With a position whose byte is the one written. -/
theorem witness_HostWriteIsSeenByTheNextSession :
    let s := doing [.memWrite 0x2000 0x5A, issue 0x10000000 0x2000 8]
    s.mem.wf ∧ (0x2000 : Addr).toNat ∉ s.devices ∧ decode 0x10000000#32 = .ok .init
      ∧ ∃ t, run 2 s = .next t ∧ 7 < t.len.toNat ∧ byteAddr t 7 = 0x2000 :=
  ⟨by decide, by decide, by decide, _, rfl, by decide, by decide⟩

/-- The last position of the buffer, the first beyond it, a stable byte beside a disturbed one, and a buffer that ends at the
top of the address space. -/
theorem witness_StreamBitIsTheBitOfItsByte :
    let s := sample.setDisturbed [0x1000]
    (15 < s.len.toNat ∧ s.len.toNat ≤ 16 ∧ unstable s (byteAddr s 15) = false ∧ unstable s (byteAddr s 0) = true
        ∧ BufferFits s.base s.len)
      ∧ BufferFits (0xFFFFFFFFFFFFFFFF : Addr) (8 : BitLen) ∧ ¬ BufferFits (0xFFFFFFFFFFFFFFFF : Addr) (9 : BitLen) := by
  decide

theorem witness_OneReadEqualsTwoReadsOfItsParts :
    (32 : BitVec 6).toNat = (0 : BitVec 6).toNat + (32 : BitVec 6).toNat
      ∧ (32 : BitVec 6).toNat = (31 : BitVec 6).toNat + (1 : BitVec 6).toNat
      ∧ (32 : BitVec 6).toNat ≤ 32 ∧ Undisturbed sample := by decide

/-- A memory that differs outside the window of a 4-bit read. -/
theorem witness_CommandsReadOnlyTheirPositionsInTheBuffer :
    15 < sample.len.toNat ∧ ([(0x1000, 0xA5#8), (0x1001, 0x0E#8)] : Memory) ≠ sample.mem ∧
      (∀ p, sample.pos.toNat ≤ p → p < sample.pos.toNat + window (.readBits 4) → p < sample.len.toNat →
        Memory.read [(0x1000, 0xA5), (0x1001, 0x0E)] (byteAddr sample p).toNat = sample.mem.read (byteAddr sample p).toNat)
      ∧ ∃ t, exec (.readBits 4) sample = .next t := by
  refine ⟨by decide, by decide, fun p h1 h2 _ => ?_, _, rfl⟩
  have h1 : 4 ≤ p := h1
  have h2 : p < 8 := h2
  interval_cases p <;> decide

/-- Two machines that differ in a byte outside the buffer, in the snapshot's history and in the inputs. -/
theorem witness_ResponsesDependOnlyOnRegistersAndBuffer :
    let u := (sample.setMem [(0x1000, 0xA5), (0x1001, 0x0F), (0x1002, 0x33)]).setDraws 9
    u ≠ sample ∧ u.base = sample.base ∧ u.len = sample.len ∧ u.pos = sample.pos ∧ u.snap = sample.snap
      ∧ u.port = sample.port ∧ Undisturbed sample ∧ Undisturbed u
      ∧ ∀ a, inBuffer sample a = true → memRead u a = memRead sample a := by
  refine ⟨by decide, rfl, rfl, rfl, rfl, rfl, by decide, by decide, fun a ha => ?_⟩
  have h2 : (a - 0x1000#64).toNat < 2 := of_decide_eq_true ha
  have : a = 0x1000#64 ∨ a = 0x1001#64 := by
    generalize hd : a - 0x1000#64 = d at h2
    have hd' : a = d + 0x1000#64 := by rw [← hd]; simp
    have : d = 0#64 ∨ d = 1#64 := by
      rcases (by omega : d.toNat = 0 ∨ d.toNat = 1) with h | h
      · exact .inl (BitVec.eq_of_toNat_eq h)
      · exact .inr (BitVec.eq_of_toNat_eq h)
    rcases this with rfl | rfl <;> simp [hd']
  rcases this with rfl | rfl <;> decide

theorem witness_AdvanceSaturates :
    2 ^ (32 + 1) - 1 < (session [] 8 8589934591 0).pos.toNat + 1
      ∧ 2 ^ (4 + 1) - 1 < (State.resetAt 4 8 31).pos.toNat + 32 := by decide

theorem witness_OnlyInitAndRestoreMoveTheCursorBack :
    (∃ t, exec .skipBits sample = .next t) ∧ Instr.skipBits ≠ .init ∧ Instr.skipBits ≠ .restore
      ∧ MachineInv sample ∧ ∃ t, exec .restore sample = .next t :=
  ⟨⟨_, rfl⟩, by decide, by decide, by decide, _, rfl⟩

/-- Each of the three clauses. -/
theorem witness_BaseAndLenChangeOnlyAtInitOrReset :
    (∃ t, step (doing [issue 0x10000000 0x2000 8]) = .next t) ∧ decode 0x10000000#32 = .ok .init ∧
      (∃ t, step (doing [.reset]) = .next t) ∧
      (∃ t, step (doing [issue 0x70000000 0 0]) = .next t)
        ∧ ∀ x ∈ (doing [issue 0x70000000 0 0]).inputs.head?, x ≠ .reset ∧ x.instr? ≠ some .init :=
  ⟨⟨_, rfl⟩, by decide, ⟨_, rfl⟩, ⟨_, rfl⟩, by decide⟩

theorem witness_ReadBitsReturnsTheNextBits :
    (0 : BitVec 6).toNat ≤ 32 ∧ (32 : BitVec 6).toNat ≤ 32 ∧ 32 < (33 : BitVec 6).toNat := by decide

/-- A read that crosses the end, one wholly beyond it, and one that saturates. -/
theorem witness_ReadBitsPastTheEndIsFilledWithZeros :
    ((13 : BitVec 6).toNat ≤ 32 ∧ sample.len.toNat < sample.pos.toNat + (13 : BitVec 6).toNat)
      ∧ (session [0xAA] 8 12 0).len.toNat < (session [0xAA] 8 12 0).pos.toNat + (32 : BitVec 6).toNat
      ∧ (session [] 0 8589934591 0).len.toNat < (session [] 0 8589934591 0).pos.toNat + (1 : BitVec 6).toNat := by decide

theorem witness_RepeatedSkipsSaturateTheCursor :
    ∃ s : State, ∃ rest, s.inputs =
      .command ⟨0x10000000#32, 0x1000, 0#32⟩ :: .command ⟨0x30000000#32, 0, 0xFFFFFFFF#32⟩ ::
      .command ⟨0x30000000#32, 0, 0xFFFFFFFF#32⟩ :: .command ⟨0x30000000#32, 0, 0xFFFFFFFF#32⟩ :: rest :=
  ⟨doing _, [], rfl⟩

/-- The shortest codeword, and the longest of EG2. -/
theorem witness_ReadUeDecodesACodeword :
    (streamBit (session [0x80] 1 0 0) (0 + 0) = true) ∧
      let s := session [0, 0, 0, 1, 0xFF, 0xFF, 0xFF, 0xFE] 63 0 0
      31 ≤ 31 ∧ (∀ j < 31, streamBit s (s.pos.toNat + j) = false) ∧ streamBit s (s.pos.toNat + 31) = true := by decide

/-- EG8's second codeword. -/
theorem witness_ReadSeDecodesACodeword :
    let s := session [0, 0, 0, 1, 0xFF, 0xFF, 0xFF, 0xFC, 0, 0, 0, 3, 0xFF, 0xFF, 0xFF, 0xFC] 126 63 0
    31 ≤ 31 ∧ (∀ j < 31, streamBit s (s.pos.toNat + j) = false) ∧ streamBit s (s.pos.toNat + 31) = true := by decide

/-- EG3 (32 zeros in the buffer), EG4 (zeros up to the end), and a cursor beyond the end. -/
theorem witness_ExpGolombFailurePutsTheCursorPastTheEnd :
    ∀ s ∈ [session [0, 0, 0, 0, 0x80] 40 0 0, session [0, 0] 16 0 0, session [0] 8 20 0],
      ∀ j ≤ 31, s.pos.toNat + j < s.len.toNat → streamBit s (s.pos.toNat + j) = false := by decide

/-- EG5. -/
theorem witness_SuffixPastTheEndIsNoFailure :
    let s := session [0x01] 8 0 0
    7 ≤ 31 ∧ (∀ j < 7, streamBit s (s.pos.toNat + j) = false) ∧ streamBit s (s.pos.toNat + 7) = true
      ∧ s.len.toNat < s.pos.toNat + 2 * 7 + 1 := by decide

theorem witness_SignedMapIsABijection :
    (-(2 ^ 31 - 1) ≤ (-2147483647 : Int) ∧ (-2147483647 : Int) ≤ 2 ^ 31 - 1)
      ∧ -(2 ^ 31 - 1) ≤ (2147483647 : Int) ∧ (2147483647 : Int) ≤ 2 ^ 31 - 1 := by decide

/-- EG2's first codeword, the largest value, and the value 0. -/
theorem witness_UnsignedCodewordRoundTrip :
    let s := session [0, 0, 0, 1, 0xFF, 0xFF, 0xFF, 0xFE] 63 0 0
    let u := session [0x80] 1 0 0
    (4294967294 ≤ 2 ^ 32 - 2 ∧ ∀ i (h : i < (ueCodeword 4294967294).length),
        streamBit s (s.pos.toNat + i) = (ueCodeword 4294967294)[i]) ∧
      0 ≤ 2 ^ 32 - 2 ∧ ∀ i (h : i < (ueCodeword 0).length), streamBit u (u.pos.toNat + i) = (ueCodeword 0)[i] := by
  decide

/-- EG8's codewords, the two ends of the range. -/
theorem witness_SignedCodewordRoundTrip :
    let s := session [0, 0, 0, 1, 0xFF, 0xFF, 0xFF, 0xFC, 0, 0, 0, 3, 0xFF, 0xFF, 0xFF, 0xFC] 126 0 0
    (-(2 ^ 31 - 1) ≤ (2147483647 : Int) ∧ (2147483647 : Int) ≤ 2 ^ 31 - 1 ∧
      ∀ i (h : i < (seCodeword 2147483647).length), streamBit s (s.pos.toNat + i) = (seCodeword 2147483647)[i]) ∧
    let u := s.setPos 63
    (-(2 ^ 31 - 1) ≤ (-2147483647 : Int) ∧ (-2147483647 : Int) ≤ 2 ^ 31 - 1 ∧
      ∀ i (h : i < (seCodeword (-2147483647)).length), streamBit u (u.pos.toNat + i) = (seCodeword (-2147483647))[i]) := by
  decide

/-- A next state of every instruction, so that each of the clauses applies to some. -/
theorem witness_CommandsLeaveTheRestAlone :
    ∀ i ∈ [Instr.init, .readBits 32, .skipBits, .readUe, .readSe, .bitsLeft, .snap, .restore],
      i.wellFormed = true ∧ (shown (exec i sample)).isSome = true := by decide

/-- Instructions that use neither port, one, and both. -/
theorem witness_UnusedOperandPortsAreIgnored :
    (∃ t, exec .snap sample = .next t) ∧ usesArgA .snap = false ∧ usesArgB .snap = false
      ∧ usesArgA .skipBits = false ∧ ∃ t, exec .skipBits sample = .next t :=
  ⟨⟨_, rfl⟩, rfl, rfl, rfl, _, rfl⟩

theorem witness_EveryResponseReportsTheOverread :
    (∃ t, step (issuing (session [0xFF] 8 0 0) 0x2000000C) = .next t ∧ Overread t)
      ∧ ∃ t, step (issuing (session [0xFF] 8 0 0) 0x20000021) = .next t ∧ ¬ Overread t :=
  ⟨⟨_, rfl, by decide⟩, ⟨_, rfl, by decide⟩⟩

/-- A response with `ILL`, one with `UEF`, one with neither. -/
theorem witness_StatusBitsThatStandTogether :
    shown (step (issuing (session [0] 8 9 0) 0)) = some (0, 0b011#3, 9, -1)
      ∧ shown (step (issuing (session [0] 8 0 0) 0x40000000)) = some (0xFFFFFFFF, 0b110#3, 9, -1)
      ∧ shown (step (issuing (session [0x80] 8 0 0) 0x40000000)) = some (0, 0b000#3, 1, 7) := by decide

/-- With a disturbed byte, a device and a response in the state. -/
theorem witness_EveryStepKeepsTheInvariant :
    let s := (((doing [issue 0x50000000 0 0]).setDisturbed [0x1001]).setDevices [0x3000]).setResponse
      (some { result := 7, st := 0 })
    MachineInv s ∧ ∃ t, step s = .next t := ⟨by decide, _, rfl⟩

theorem witness_ReachableSnapshotIsNeverAheadOfTheCursor :
    ∃ s, run 3 ((State.reset.setMem [(0x1000, 0xA5)]).setInputs
      [issue 0x10000000 0x1000 8, issue 0x20000003 0 0, issue 0x70000000 0 0]) = .next s ∧ s.snap = 3 :=
  ⟨_, rfl, by decide⟩

/-- An overread, then a read, a host write and an illegal word. -/
theorem witness_OverreadLastsUntilInitOrRestore :
    let s := (session [0xAA] 8 12 0).setInputs [issue 0x20000001 0 0, .memWrite 0x1000 1, issue 0 0 0]
    Overread s ∧ (∀ x ∈ s.inputs.take 3, ¬ x.endsOverread) ∧ (∀ q ∈ s.response, q.neg = true) ∧ ∃ t, run 3 s = .next t :=
  ⟨by decide, by decide, by decide, _, rfl⟩

theorem witness_AcceptedParseHadNoFailure :
    let s := doing [issue 0x40000000 0 0, issue 0x20000004 0 0]
    MachineInv s ∧ ∃ u t, run 1 s = .next u ∧ run 1 u = .next t ∧ (∀ x ∈ u.inputs.take 1, ¬ x.endsOverread)
      ∧ ¬ Overread t ∧ u.response ≠ none :=
  ⟨by decide, _, _, rfl, rfl, by decide, by decide, by decide⟩

/-- CS1, steps 3 to 7: a snapshot, an overread, the restore. -/
theorem witness_RestoreUndoesEverythingSinceSnap :
    let s := (session [0x12, 0x34, 0x56, 0x78, 0x9A, 0xBC, 0xDE, 0xF0] 64 10 0).setInputs
      [issue 0x70000000 0 0, issue 0x20000020 0 0, issue 0x20000020 0 0, issue 0x80000000 0 0]
    decode 0x70000000#32 = .ok .snap ∧ decode 0x80000000#32 = .ok .restore
      ∧ (∀ x ∈ [issue 0x20000020 0 0, issue 0x20000020 0 0, issue 0x80000000 0 0].take 2, ¬ x.writesSnap)
      ∧ (∃ u, run 3 s = .next u ∧ Overread u ∧ u.inputs.head? = some (issue 0x80000000 0 0))
      ∧ ∃ t, run 4 s = .next t :=
  ⟨by decide, by decide, by decide, ⟨_, rfl, by decide, rfl⟩, _, rfl⟩

/-- CS2; the same after a reset input, and from power-up. -/
theorem witness_RestoreWithoutSnapReturnsToTheStart :
    let s := (session [0xF0] 8 0 0).setInputs [issue 0x10000000 0x1000 8, issue 0x20000006 0 0]
    let u := (session [0xF0] 8 4 2).setInputs [.reset, issue 0x20000006 0 0]
    (decode 0x10000000#32 = .ok .init ∧ (∀ x ∈ [issue 0x20000006 0 0].take 1, ¬ x.writesSnap)
      ∧ ∃ t, run 2 s = .next t ∧ t.pos = 6) ∧
    ((∀ x ∈ [issue 0x20000006 0 0].take 1, ¬ x.writesSnap) ∧ ∃ t, run 2 u = .next t ∧ t.pos = 6) ∧
    ∃ t, run 1 ((State.reset.setMem [(0, 0xF0)]).setInputs [issue 0x20000006 0 0]) = .next t ∧ t.pos = 6 :=
  ⟨⟨by decide, by decide, _, rfl, by decide⟩, ⟨by decide, _, rfl, by decide⟩, _, rfl, by decide⟩

theorem witness_AssemblerLinesRoundTrip :
    (32 : BitVec 6).toNat ≤ 32 ∧ legal 0x90000000 = false
      ∧ (∀ n, (AsmCmd.init 0x1000 16 : AsmCmd) = .readBits n → n.toNat ≤ 32)
      ∧ ∀ w, (AsmCmd.init 0x1000 16 : AsmCmd) = .word w → legal w = false :=
  ⟨by decide, by decide, fun _ h => (by cases h), fun _ h => (by cases h)⟩

/-- The ends of the ranges of `SKIP_TO` and `SKIP_BYTES`. -/
theorem witness_GetPosSkipToAndSkipBytes :
    (sample.pos.toNat ≤ 4 ∧ 4 - sample.pos.toNat ≤ 2 ^ 32 - 1)
      ∧ (sample.pos.toNat ≤ 4294967299 ∧ 4294967299 - sample.pos.toNat ≤ 2 ^ 32 - 1)
      ∧ 8 * 536870911 ≤ 2 ^ 32 - 1 := by decide

theorem witness_ReadLongIsOneReadAndReadFlagOneBit :
    (33 ≤ 33 ∧ 33 ≤ 64) ∧ (33 ≤ 64 ∧ 64 ≤ 64) ∧ Undisturbed sample := by decide

/-- `KMAX` at both ends of its range, with a prefix that succeeds there. -/
theorem witness_ReadUeSentinelMarksExactlyTheFailures :
    let s : State 32 64 0 := { State.resetAt 32 64 0 with len := 8, mem := [(0, 0x80)] }
    let u : State 32 64 31 := { State.resetAt 32 64 31 with len := 40, mem := [(3, 1)] }
    (0 ≤ 31 ∧ uePrefix s = some 0) ∧ 31 ≤ 31 ∧ uePrefix u = some 31 := by decide

/-- Two instances over one memory, each with its own number. -/
theorem witness_InstancesShareNothing :
    let us := [sample, (sample.setPos 9).setUnitNo 1]
    OneMemory us ∧ OwnNumbers us ∧ us[1]? = some ((sample.setPos 9).setUnitNo 1) ∧ 0 ≠ 1 := by decide

end Sys2Proof.Tests
end

section
/-! The scope family (00_scope.md): the bound on a width (R3). -/

namespace Sys2Proof.Machine

open Sys2Proof

/-- R3, R63: the reason the decoder gives for rejecting a `READ_BITS` above the bound is its width (log 9). -/
theorem decode_encode_readBits_wide {n : BitVec 6} (hn : 32 < n.toNat) :
    decode (encode (.readBits n)) = .error .widthTooLarge := by
  have hop : (opField (encode (.readBits n))).toNat = 2 := by rw [opField_encode]; rfl
  simp [decode, hop, decodeReadBits, rsvField_encode, widthField_encode, widthCode, hn]

/-- R3, R63: the same bound, by the legality rule. -/
theorem legal_encode_readBits_wide {n : BitVec 6} (hn : 32 < n.toNat) : legal (encode (.readBits n)) = false := by
  rw [Laws.LegalWord.readBits n, ← Bool.not_eq_true, wellFormed_readBits]
  omega

/-- R141: a step that takes a command whose word the decoder rejects is the illegal command. -/
theorem step_of_decode_error {s : State} {r : Request} {rest : List Input} {e : Reject}
    (hin : s.inputs = .command r :: rest) (he : decode r.cmd = .error e) :
    step s = .next (illegalCommand (accept s r rest)) := by
  simp only [step, stepBy, hin, he]

/-- Settles O10: the decoder's rejection makes the step the illegal command, which sets `ILL` and keeps the cursor. -/
theorem readBitsWiderThanThirtyTwoIsIllegal : Obligations.ReadBitsWiderThanThirtyTwoIsIllegal := by
  refine ⟨Config.NMAX_eq, fun n hn => ?_⟩
  have hdec := decode_encode_readBits_wide hn
  refine ⟨legal_encode_readBits_wide hn, ⟨_, hdec⟩, fun s r rest hcmd hin => ?_⟩
  exact ⟨_, _, step_of_decode_error hin (hcmd ▸ hdec), illegalCommand_response _, ill_statusWord _ _ _ _, rfl⟩

end Sys2Proof.Machine
end

section
/-! The state family (10_state.md): reset (R30), the overread bit of every response (R29), no hidden state (R32). -/

namespace Sys2Proof.Machine

open Sys2Proof

variable {LEN_W ADDR_W KMAX : Nat}

/-! ### Reset -/

/-- Settles O1: the registers are zero by definition, and past an empty buffer's end there is only fill (R43). -/
theorem resetLeavesAnEmptySession : Obligations.ResetLeavesAnEmptySession := by
  have hlen : State.reset.len.toNat = 0 := rfl
  have hend : ∀ p, State.reset.len.toNat ≤ p := fun p => hlen ▸ Nat.zero_le p
  exact ⟨rfl, rfl, rfl, rfl, rfl, rfl, fun p => ⟨hend p, streamBit_of_le (hend p)⟩⟩

/-! ### How a command's step ends -/

/-- R27, R63: a step that takes a command whose word decodes performs that command. -/
theorem step_of_decode_ok {s : State} {r : Request} {rest : List Input} {i : Instr}
    (hin : s.inputs = .command r :: rest) (hi : decode r.cmd = .ok i) : step s = exec i (accept s r rest) := by
  simp only [step, stepBy, hin, hi]

/-- R12, R141: a step that takes a command, legal or illegal, ends with a response. -/
theorem step_command_eq_respond {s t : State} {r : Request} {rest : List Input}
    (hin : s.inputs = .command r :: rest) (ht : step s = .next t) : ∃ u v ill uef, t = respond u v ill uef := by
  cases hd : decode r.cmd with
  | ok i =>
    obtain ⟨u, v, ill, uef, hu, -⟩ := exec_eq_respond i (accept s r rest)
    rw [step_of_decode_ok hin hd, hu] at ht
    cases ht
    exact ⟨u, v, ill, uef, rfl⟩
  | error e =>
    rw [step_of_decode_error hin hd] at ht
    cases ht
    exact ⟨accept s r rest, resultZero, true, false, rfl⟩

/-- Settles O47: every command's step ends in `respond`, which takes `NEG` from the registers it leaves. -/
theorem everyResponseReportsTheOverread : Obligations.EveryResponseReportsTheOverread := by
  intro s t r rest hin ht
  obtain ⟨u, v, ill, uef, rfl⟩ := step_command_eq_respond hin ht
  refine ⟨_, respond_response u v ill uef, ?_⟩
  rw [neg_of_respond, respond_len, respond_pos]
  omega

/-! ### No hidden state -/

/-- R20: the two machines hold the same four registers. -/
structure SameRegisters (s u : State LEN_W ADDR_W KMAX) : Prop where
  base : u.base = s.base
  len : u.len = s.len
  pos : u.pos = s.pos
  snap : u.snap = s.snap

section
variable {s u : State LEN_W ADDR_W KMAX}

theorem SameRegisters.setPos (h : SameRegisters s u) {p q : Cursor LEN_W} (hpq : q = p) :
    SameRegisters (s.setPos p) (u.setPos q) := ⟨h.base, h.len, hpq, h.snap⟩

theorem SameRegisters.setSnap (h : SameRegisters s u) {p q : Cursor LEN_W} (hpq : q = p) :
    SameRegisters (s.setSnap p) (u.setSnap q) := ⟨h.base, h.len, h.pos, hpq⟩

theorem SameRegisters.nextDraw (h : SameRegisters s u) : SameRegisters (nextDraw s) (nextDraw u) :=
  ⟨h.base, h.len, h.pos, h.snap⟩

theorem SameRegisters.advance (h : SameRegisters s u) (n : Nat) : SameRegisters (advance s n) (advance u n) :=
  h.setPos (by rw [h.pos])

theorem SameRegisters.ueFail (h : SameRegisters s u) : SameRegisters (ueFail s) (ueFail u) :=
  h.setPos (by rw [h.pos, h.len])

theorem SameRegisters.respond (h : SameRegisters s u) (v : Result) (ill uef : Bool) :
    SameRegisters (respond s v ill uef) (respond u v ill uef) := ⟨h.base, h.len, h.pos, h.snap⟩

/-- R80: a new session's registers come from its operands alone. -/
theorem sameRegisters_startSession (s u : State LEN_W ADDR_W KMAX) (b : Addr ADDR_W) (l : BitLen LEN_W) :
    SameRegisters (startSession s b l) (startSession u b l) := ⟨rfl, rfl, rfl, rfl⟩

/-- R22: the remaining bits are a function of the registers. -/
theorem SameRegisters.bitsLeft_eq (h : SameRegisters s u) : bitsLeft u = bitsLeft s := by
  rw [bitsLeft, bitsLeft, h.len, h.pos]

/-- R29: the response that ends a command takes its overread bit from the registers, so it is the same response. -/
theorem SameRegisters.respond_response_eq (h : SameRegisters s u) (v : Result) (ill uef : Bool) :
    (Machine.respond u v ill uef).response = (Machine.respond s v ill uef).response := by
  rw [respond_response, respond_response, negFlag, negFlag, h.bitsLeft_eq]

/-- R101: the prefix scan is a function of the cursor and the stream. -/
theorem uePrefix_congr (hpos : u.pos = s.pos) (hbit : ∀ p, streamBit u p = streamBit s p) :
    uePrefix u = uePrefix s :=
  Option.ext fun k => by simp only [uePrefix_eq_some, hpos, hbit]

end

/-- Both machines perform the command and end it with the same registers and the same response. -/
def EndAlike (i : Instr) (s u : State) : Prop :=
  ∃ t v, exec i s = .next t ∧ exec i u = .next v ∧ SameRegisters t v ∧ v.response = t.response

/-- Two commands that end with one result in states of the same registers end alike. -/
theorem endAlike_of_respond {i : Instr} {s u t v : State} {x : Result} {ill uef : Bool}
    (hs : exec i s = .next (respond t x ill uef)) (hu : exec i u = .next (respond v x ill uef))
    (h : SameRegisters t v) : EndAlike i s u :=
  ⟨_, _, hs, hu, h.respond x ill uef, h.respond_response_eq x ill uef⟩

/-- R32: a command's registers and response are a function of the registers, the ports and the stream. -/
theorem endAlike_of_sameStream (i : Instr) {s u : State} (h : SameRegisters s u) (hport : u.port = s.port)
    (hbit : ∀ p, streamBit u p = streamBit s p) : EndAlike i s u := by
  have hread (p n : Nat) : readStream u p n = readStream s p n := readStream_congr fun _ _ => hbit _
  have hprefix := uePrefix_congr h.pos hbit
  cases i with
  | init =>
    have hu := exec_init u
    rw [hport] at hu
    exact endAlike_of_respond (exec_init s) hu (sameRegisters_startSession s u _ _)
  | readBits n =>
    rcases Nat.lt_or_ge 32 n.toNat with hn | hn
    · exact endAlike_of_respond (exec_readBits_illegal hn s) (exec_readBits_illegal hn u) h
    · have hu := exec_readBits hn u
      rw [hread, h.pos] at hu
      exact endAlike_of_respond (exec_readBits hn s) hu (h.advance _).nextDraw
  | skipBits =>
    have hu := exec_skipBits u
    rw [hport] at hu
    exact endAlike_of_respond (exec_skipBits s) hu (h.advance _)
  | readUe =>
    cases hk : uePrefix s with
    | none =>
      have hu := exec_readUe_of_none (hprefix.trans hk)
      exact endAlike_of_respond (exec_readUe_of_none hk) hu h.ueFail.nextDraw
    | some k =>
      have hu := exec_readUe_of_some (hprefix.trans hk)
      rw [hread, h.pos] at hu
      exact endAlike_of_respond (exec_readUe_of_some hk) hu ((h.advance _).advance _).nextDraw
  | readSe =>
    cases hk : uePrefix s with
    | none =>
      have hu := exec_readSe_of_none (hprefix.trans hk)
      exact endAlike_of_respond (exec_readSe_of_none hk) hu h.ueFail.nextDraw
    | some k =>
      have hu := exec_readSe_of_some (hprefix.trans hk)
      rw [hread, h.pos] at hu
      exact endAlike_of_respond (exec_readSe_of_some hk) hu ((h.advance _).advance _).nextDraw
  | bitsLeft =>
    have hu := exec_bitsLeft u
    rw [h.bitsLeft_eq] at hu
    exact endAlike_of_respond (exec_bitsLeft s) hu h
  | snap => exact endAlike_of_respond (exec_snap s) (exec_snap u) (h.setSnap h.pos)
  | restore => exact endAlike_of_respond (exec_restore s) (exec_restore u) (h.setPos h.snap)

/-- Settles O23: undisturbed buffers of the same bytes give the same stream, on which alone, with the registers and the
ports, a command's end depends. -/
theorem responsesDependOnlyOnRegistersAndBuffer : Obligations.ResponsesDependOnlyOnRegistersAndBuffer := by
  intro i s u hbase hlen hpos hsnap hport hs hu hmem
  have hbit := streamBit_congr_of_undisturbed hs hu hbase hlen hmem
  obtain ⟨t, v, ht, hv, hreg, hresp⟩ := endAlike_of_sameStream i ⟨hbase, hlen, hpos, hsnap⟩ hport hbit
  exact ⟨t, v, ht, hv, hreg.base, hreg.len, hreg.pos, hreg.snap, hresp⟩

end Sys2Proof.Machine
end

section
/-! The memory family (20_memory.md): the value of a run of stream bits (R54). -/

namespace Sys2Proof.Machine

open Sys2Proof

variable {LEN_W ADDR_W KMAX : Nat}

/-- R54: a later bit doubles the weight of every bit before it, so the lowest position weighs the most. -/
theorem readStream_eq_sum (s : State LEN_W ADDR_W KMAX) (p n : Nat) :
    readStream s p n = ∑ i ∈ Finset.range n, (streamBit s (p + i)).toNat * 2 ^ (n - 1 - i) := by
  induction n with
  | zero => rfl
  | succ n ih =>
    have hdouble : ∀ i ∈ Finset.range n, 2 * ((streamBit s (p + i)).toNat * 2 ^ (n - 1 - i))
        = (streamBit s (p + i)).toNat * 2 ^ (n - i) := by
      intro i hi
      have hexp : n - i = n - 1 - i + 1 := by have := Finset.mem_range.1 hi; omega
      rw [hexp, pow_succ]
      ring
    rw [readStream, ih, Finset.mul_sum, Finset.sum_congr rfl hdouble, Finset.sum_range_succ]
    simp

/-- Settles O20: the value is the weighted sum of its bits, it stays below `2 ^ n`, and no bits at all have the value 0,
whatever the memory holds. -/
theorem readStreamIsTheSumOfItsBits : Obligations.ReadStreamIsTheSumOfItsBits := by
  intro s p
  exact ⟨fun n => ⟨readStream_eq_sum s p n, readStream_lt s p n⟩, readStream_zero s p,
    fun m => readStream_zero (s.setMem m) p⟩

end Sys2Proof.Machine
end

section
/-! The encoding family (30_encoding.md): the words that decode are the legal ones (R63). -/

namespace Sys2Proof

/-! ### The legality rule over the fields as numbers -/

/-- R62: the assigned operation codes are the numbers 1 to 8. -/
theorem mem_assignedOps_iff (op : BitVec 4) :
    op ∈ [0x1#4, 0x2#4, 0x3#4, 0x4#4, 0x5#4, 0x6#4, 0x7#4, 0x8#4] ↔ 1 ≤ op.toNat ∧ op.toNat ≤ 8 := by
  revert op
  decide

theorem legal_iff {w : CmdWord} :
    legal w = true ↔ (1 ≤ (opField w).toNat ∧ (opField w).toNat ≤ 8) ∧ (rsvField w).toNat = 0
      ∧ (if (opField w).toNat = 2 then (widthField w).toNat ≤ 32 else (widthField w).toNat = 0) := by
  have hop : opField w = 0x2#4 ↔ (opField w).toNat = 2 := BitVec.toNat_inj.symm
  have hrsv : rsvField w = 0 ↔ (rsvField w).toNat = 0 := BitVec.toNat_inj.symm
  have hn : widthField w = 0#6 ↔ (widthField w).toNat = 0 := BitVec.toNat_inj.symm
  rw [legal, Bool.and_eq_true, Bool.and_eq_true, decide_eq_true_iff, mem_assignedOps_iff, beq_iff_eq, hrsv, and_assoc]
  by_cases h : (opField w).toNat = 2
  · simp [hop.2 h]
  · simp [h, mt hop.1 h, hn]

/-! ### The decoder against the legality rule -/

/-- R63: every instruction of `LegalWord` at once. -/
theorem legal_encode (i : Instr) : legal (encode i) = i.wellFormed := by
  cases i with
  | init => exact Laws.LegalWord.init
  | readBits n => exact Laws.LegalWord.readBits n
  | skipBits => exact Laws.LegalWord.skipBits
  | readUe => exact Laws.LegalWord.readUe
  | readSe => exact Laws.LegalWord.readSe
  | bitsLeft => exact Laws.LegalWord.bitsLeft
  | snap => exact Laws.LegalWord.snap
  | restore => exact Laws.LegalWord.restore

theorem legal_congr {w v : CmdWord} (hop : opField w = opField v) (hrsv : rsvField w = rsvField v)
    (hn : widthField w = widthField v) : legal w = legal v := by
  rw [legal, legal, hop, hrsv, hn]

/-- A word that decodes has the fields of its instruction's word, which is legal. -/
theorem legal_of_decode {w : CmdWord} {i : Instr} (h : decode w = .ok i) : legal w = true := by
  obtain ⟨hop, hrsv, hn, hw⟩ := decode_eq_ok.1 h
  calc legal w = legal (encode i) := legal_congr (hop.trans (opField_encode i).symm)
        (hrsv.trans (rsvField_encode i).symm) (hn.trans (widthField_encode i).symm)
    _ = i.wellFormed := legal_encode i
    _ = true := hw

/-- R62, R63: an assigned operation code and a width it admits are those of an instruction. -/
theorem exists_wellFormed_of_fields {op : BitVec 4} {n : BitVec 6} (hop : 1 ≤ op.toNat ∧ op.toNat ≤ 8)
    (hn : if op.toNat = 2 then n.toNat ≤ 32 else n.toNat = 0) :
    ∃ i : Instr, op = opCode i ∧ n = widthCode i ∧ i.wellFormed = true := by
  have hzero : op.toNat ≠ 2 → n = 0 := fun h => BitVec.eq_of_toNat_eq (by rwa [if_neg h] at hn)
  have hmem := (mem_assignedOps_iff op).2 hop
  simp only [List.mem_cons, List.not_mem_nil, or_false] at hmem
  rcases hmem with rfl | rfl | rfl | rfl | rfl | rfl | rfl | rfl
  · exact ⟨.init, rfl, hzero (by decide), rfl⟩
  · exact ⟨.readBits n, rfl, rfl, wellFormed_readBits.2 hn⟩
  · exact ⟨.skipBits, rfl, hzero (by decide), rfl⟩
  · exact ⟨.readUe, rfl, hzero (by decide), rfl⟩
  · exact ⟨.readSe, rfl, hzero (by decide), rfl⟩
  · exact ⟨.bitsLeft, rfl, hzero (by decide), rfl⟩
  · exact ⟨.snap, rfl, hzero (by decide), rfl⟩
  · exact ⟨.restore, rfl, hzero (by decide), rfl⟩

/-- R63, R68: the decoder accepts exactly the legal words. -/
theorem exists_decode_eq_ok_iff_legal {w : CmdWord} : (∃ i, decode w = .ok i) ↔ legal w = true := by
  constructor
  · rintro ⟨i, hi⟩
    exact legal_of_decode hi
  · intro h
    obtain ⟨hop, hrsv, hn⟩ := legal_iff.1 h
    obtain ⟨i, hopi, hni, hwf⟩ := exists_wellFormed_of_fields hop hn
    exact ⟨i, decode_eq_ok.2 ⟨hopi, BitVec.eq_of_toNat_eq hrsv, hni, hwf⟩⟩

/-- Settles O6: the decoder accepts the legal words, and the legality rule reads the fields of R61 as numbers. -/
theorem exactlyTheLegalWordsDecode : Obligations.ExactlyTheLegalWordsDecode := by
  intro w
  rw [exists_decode_eq_ok_iff_legal, legal_iff, opField_toNat, rsvField_toNat, widthField_toNat]

end Sys2Proof
end

section
/-! The fixed-width family (40_fixed_width.md): `INIT` (R80), `READ_BITS` (R83, R85), `SKIP_BITS` (R90). -/

namespace Sys2Proof.Machine

open Sys2Proof

variable {LEN_W ADDR_W KMAX : Nat}

/-! ### The words -/

/-- R61, R62: the word of a well-formed instruction decodes to the instruction. -/
theorem decode_encode_of_wellFormed {i : Instr} (h : i.wellFormed = true) : decode (encode i) = .ok i :=
  decode_eq_ok.2 ⟨opField_encode i, rsvField_encode i, widthField_encode i, h⟩

/-- R62: the table writes the word of `READ_BITS` as its operation code or-ed with the width. -/
theorem readBitsWord_eq_encode (n : BitVec 6) : 0x20000000#32 ||| n.setWidth 32 = encode (.readBits n) := by
  have hn := n.isLt
  have hop : (0x20000000#32).toNat = 2 ^ 28 * 2 := rfl
  have hwidth : (n.setWidth 32).toNat = n.toNat := by rw [BitVec.toNat_setWidth]; omega
  apply BitVec.eq_of_toNat_eq
  calc (0x20000000#32 ||| n.setWidth 32).toNat = 2 ^ 28 * 2 ||| n.toNat := by rw [BitVec.toNat_or, hop, hwidth]
    _ = 2 ^ 28 * 2 + n.toNat := (Nat.two_pow_add_eq_or_of_lt (by omega) 2).symm
    _ = (encode (.readBits n)).toNat := by rw [encode_toNat, Nat.mul_comm]; rfl

/-! ### The cursor and the overread bit -/

/-- R24: advancing by no bits is no change. -/
theorem advance_zero (s : State LEN_W ADDR_W KMAX) : advance s 0 = s := by
  have hpos : saturate (s.pos.toNat + 0) = s.pos := by
    apply BitVec.eq_of_toNat_eq
    rw [saturate_toNat]
    have := s.pos.isLt
    omega
  rw [advance, hpos]
  rfl

/-- R24: `POS_MAX` lies beyond every `LEN`, so the saturation hides no overread. -/
theorem len_lt_advance_pos_iff (s : State LEN_W ADDR_W KMAX) (n : Nat) :
    s.len.toNat < (advance s n).pos.toNat ↔ s.len.toNat < s.pos.toNat + n := by
  have hlen := s.len.isLt
  rw [advance_pos_toNat, pow_succ]
  omega

/-- R29: the overread bit of a command that ends after advancing by `n` bits. -/
theorem neg_respond_advance_iff (s : State LEN_W ADDR_W KMAX) (n : Nat) (v : Result) (i u : Bool) :
    Response.neg { result := v, st := statusWord i (negFlag (advance s n)) u } = true
      ↔ s.len.toNat < s.pos.toNat + n := by
  rw [neg_of_respond, advance_len, len_lt_advance_pos_iff]

/-- R29, R80: a new session starts without an overread. -/
theorem negFlag_startSession (s : State LEN_W ADDR_W KMAX) (b : Addr ADDR_W) (l : BitLen LEN_W) :
    negFlag (startSession s b l) = false := by
  rw [← Bool.not_eq_true, negFlag_iff]
  exact Nat.not_lt_zero _

/-! ### No memory read -/

/-- R46: a command whose next state takes the memory over unread. -/
theorem ignoresMemory_of_exec {i : Instr} {s t : State} (ht : exec i s = .next t)
    (hm : ∀ m, exec i (s.setMem m) = .next (t.setMem m)) : IgnoresMemory i s := by
  intro t' ht' m
  cases ht.symm.trans ht'
  exact hm m

/-! ### The commands -/

/-- R85: `READ_BITS 0` takes free values of its own, as every reading command does, and is otherwise a bare response. -/
theorem exec_readBits_zero (s : State) : exec (.readBits 0) s = .next (respond (nextDraw s) 0 false false) := by
  have hexec := exec_readBits (n := 0) (by decide) s
  rwa [show (0 : BitVec 6).toNat = 0 from rfl, advance_zero, readStream_zero] at hexec

/-- Settles O28: the word is the encoder's, the value is the run's weighted sum (R54), which fits the result port, and the
end of the command takes `NEG` from the advanced cursor. -/
theorem readBitsReturnsTheNextBits : Obligations.ReadBitsReturnsTheNextBits := by
  refine ⟨fun n hn => ?_, fun n hn => ?_, fun s n hn => ?_⟩
  · rw [readBitsWord_eq_encode]
    exact decode_encode_of_wellFormed (wellFormed_readBits.2 hn)
  · rw [readBitsWord_eq_encode]
    exact ⟨_, decode_encode_readBits_wide hn⟩
  · have hfits : readStream s s.pos.toNat n.toNat < 2 ^ 64 :=
      (readStream_lt s s.pos.toNat n.toNat).trans_le (Nat.pow_le_pow_right (by decide) (by omega))
    refine ⟨_, _, exec_readBits hn s, respond_response _ _ _ _, ?_, ?_, ill_statusWord _ _ _ _, uef_statusWord _ _ _ _,
      neg_respond_advance_iff s n.toNat _ _ _, rfl, rfl, rfl, fun _ => rfl⟩
    · rw [resultUnsigned_toNat hfits, readStream_eq_sum]
    · exact advance_pos_toNat s n.toNat

/-- Settles O27: the session's registers are the operands and zeros, and an empty past is no overread. -/
theorem initStartsASession : Obligations.InitStartsASession := by
  refine ⟨decode_encode_of_wellFormed (i := .init) rfl, fun s => ?_⟩
  refine ⟨_, _, exec_init s, rfl, rfl, rfl, rfl, respond_response _ _ _ _, rfl, ill_statusWord _ _ _ _,
    uef_statusWord _ _ _ _, ?_, fun _ => rfl, ignoresMemory_of_exec (exec_init s) fun m => exec_init (s.setMem m)⟩
  rw [neg_statusWord, negFlag_startSession]

/-- Settles O30: reading no bits, the command is a bare response, the same over any memory. -/
theorem readBitsOfWidthZeroReadsNothing : Obligations.ReadBitsOfWidthZeroReadsNothing := fun s =>
  ⟨_, _, exec_readBits_zero s, respond_response _ _ _ _, rfl, rfl, neg_statusWord _ _ _ _,
    ignoresMemory_of_exec (exec_readBits_zero s) fun m => exec_readBits_zero (s.setMem m)⟩

/-- Settles O31: the command is the cursor's advance and the response that follows it. -/
theorem skipBitsAdvancesByItsOperand : Obligations.SkipBitsAdvancesByItsOperand := by
  refine ⟨decode_encode_of_wellFormed (i := .skipBits) rfl, fun s => ?_⟩
  exact ⟨_, _, exec_skipBits s, respond_response _ _ _ _, rfl, ill_statusWord _ _ _ _, uef_statusWord _ _ _ _,
    advance_pos_toNat s _, neg_respond_advance_iff s _ _ _ _, rfl, rfl, rfl, fun _ => rfl,
    ignoresMemory_of_exec (exec_skipBits s) fun m => exec_skipBits (s.setMem m)⟩

end Sys2Proof.Machine
end

section
/-! The cursor and status family (42_cursor_status.md): `BITS_LEFT` (R120), `SNAP` (R125), `RESTORE` (R130). -/

namespace Sys2Proof.Machine

open Sys2Proof

/-- Settles O33: the result port is wide enough for every signed difference (R22), and `NEG` is that difference's sign. -/
theorem bitsLeftReportsLenMinusPos : Obligations.BitsLeftReportsLenMinusPos := by
  refine ⟨decode_encode_of_wellFormed (i := .bitsLeft) rfl, fun s => ?_⟩
  refine ⟨_, _, exec_bitsLeft s, respond_response _ _ _ _, resultBitsLeft_toInt s, ill_statusWord _ _ _ _,
    uef_statusWord _ _ _ _, ?_, rfl, rfl, rfl, rfl, fun _ => rfl,
    ignoresMemory_of_exec (exec_bitsLeft s) fun m => exec_bitsLeft (s.setMem m)⟩
  rw [neg_of_respond]
  omega

/-- Settles O34: the new snapshot is the cursor whatever the old one was, and `NEG` does not look at a snapshot. -/
theorem snapSavesTheCursor : Obligations.SnapSavesTheCursor := by
  refine ⟨decode_encode_of_wellFormed (i := .snap) rfl, fun s => ?_⟩
  exact ⟨_, _, exec_snap s, respond_response _ _ _ _, rfl, ill_statusWord _ _ _ _, uef_statusWord _ _ _ _,
    neg_statusWord _ _ _ _, rfl, rfl, rfl, rfl, fun _ => rfl,
    ignoresMemory_of_exec (exec_snap s) fun m => exec_snap (s.setMem m)⟩

/-- Settles O35: `NEG` is taken from the restored cursor, and the snapshot is not written. -/
theorem restoreReturnsToTheSnapshot : Obligations.RestoreReturnsToTheSnapshot := by
  refine ⟨decode_encode_of_wellFormed (i := .restore) rfl, fun s => ?_⟩
  exact ⟨_, _, exec_restore s, respond_response _ _ _ _, rfl, ill_statusWord _ _ _ _, uef_statusWord _ _ _ _,
    neg_of_respond _ _ _ _, rfl, rfl, rfl, rfl, fun _ => rfl,
    ignoresMemory_of_exec (exec_restore s) fun m => exec_restore (s.setMem m)⟩

end Sys2Proof.Machine
end

section
/-! The exceptions family (60_exceptions.md): the illegal command word (R141), the failed Exp-Golomb decode (R143). -/

namespace Sys2Proof.Machine

open Sys2Proof

variable {LEN_W ADDR_W KMAX : Nat}

/-! ### Illegal command words -/

/-- R63, R68: an illegal word is one that the decoder rejects. -/
theorem exists_decode_eq_error_of_illegal {w : CmdWord} (h : legal w = false) : ∃ e, decode w = .error e := by
  cases hd : decode w with
  | error e => exact ⟨e, rfl⟩
  | ok i => cases h.symm.trans (legal_of_decode hd)

/-- R141: a step that takes a command with an illegal word is the illegal command. -/
theorem step_of_illegal {s : State} {r : Request} {rest : List Input} (hin : s.inputs = .command r :: rest)
    (h : legal r.cmd = false) : step s = .next (illegalCommand (accept s r rest)) := by
  obtain ⟨e, he⟩ := exists_decode_eq_error_of_illegal h
  exact step_of_decode_error hin he

/-- R140, R145: no state keeps a command from answering a next state. -/
theorem exists_exec_eq_next (i : Instr) (s : State) : ∃ t, exec i s = .next t := by
  obtain ⟨t, v, ill, uef, ht, -⟩ := exec_eq_respond i s
  exact ⟨_, ht⟩

/-- Settles O13: every illegal word makes the step the one illegal command, which ends in a bare response; it takes over
the memory unread, and its response depends on the registers alone, not on the words of the transaction. -/
theorem illegalWordChangesNoRegister : Obligations.IllegalWordChangesNoRegister := by
  intro s r rest hin hill
  refine ⟨_, _, step_of_illegal hin hill, rfl, rfl, rfl, rfl, fun _ => rfl, illegalCommand_response _, rfl,
    ill_statusWord _ _ _ _, uef_statusWord _ _ _ _, neg_of_respond _ _ _ _, ?overAnyMemory, ?anyIllegalWord,
    fun i => exists_exec_eq_next i _⟩
  case overAnyMemory => exact fun m => step_of_illegal (s := s.setMem m) hin hill
  case anyIllegalWord => exact fun r' hill' => ⟨_, step_of_illegal rfl hill', rfl⟩

/-! ### Failed Exp-Golomb decodes -/

/-- R101: the scan fails when the positions it may examine hold no one inside the buffer; beyond the end is only fill
(R43). -/
theorem uePrefix_eq_none_of_noOneInBuffer {s : State LEN_W ADDR_W KMAX}
    (h : ∀ j ≤ KMAX, s.pos.toNat + j < s.len.toNat → streamBit s (s.pos.toNat + j) = false) : uePrefix s = none := by
  refine uePrefix_eq_none.2 fun j hj => ?_
  rcases Nat.lt_or_ge (s.pos.toNat + j) s.len.toNat with hin | hout
  · exact h j hj hin
  · exact streamBit_of_le hout

/-- R22, R142: in an overread state the remaining bits are at most -1. -/
theorem bitsLeft_le_neg_one_of_overread {s : State LEN_W ADDR_W KMAX} (h : Overread s) : bitsLeft s ≤ -1 := by
  rw [bitsLeft]
  omega

/-- R105: a failed decode puts the cursor past the end, also where it saturates: `POS_MAX` lies beyond every `LEN`. -/
theorem overread_ueFail (s : State LEN_W ADDR_W KMAX) : Overread (ueFail s) := by
  have hlen := s.len.isLt
  rw [Overread, ueFail_len, ueFail_pos_toNat, pow_succ]
  omega

/-- The result of a failed `READ_UE` (R105) or `READ_SE` (R112). -/
def failureResult (i : Instr) : Result := if i = .readUe then 0x00000000FFFFFFFF#64 else 0xFFFFFFFF80000000#64

/-- R105, R112: the two Exp-Golomb reads fail alike, but for the sentinel. -/
theorem exec_of_uePrefix_eq_none {i : Instr} {s : State} (hi : i = .readUe ∨ i = .readSe) (h : uePrefix s = none) :
    exec i s = .next (respond (nextDraw (ueFail s)) (failureResult i) false true) := by
  rcases hi with rfl | rfl
  · exact exec_readUe_of_none h
  · exact exec_readSe_of_none h

/-- Settles O38: no one bit in reach fails the scan (R101), and a failed decode leaves an overread, from which the end of
the command takes `NEG`. -/
theorem expGolombFailurePutsTheCursorPastTheEnd : Obligations.ExpGolombFailurePutsTheCursorPastTheEnd := by
  intro s hzeros i hi
  have hnone : uePrefix s = none := uePrefix_eq_none_of_noOneInBuffer hzeros
  have hover : Overread (ueFail s) := overread_ueFail s
  exact ⟨_, _, exec_of_uePrefix_eq_none hi hnone, respond_response _ _ _ _, rfl, ueFail_pos_toNat s,
    ill_statusWord _ _ _ _, uef_statusWord _ _ _ _, (neg_of_respond _ _ _ _).2 hover,
    bitsLeft_le_neg_one_of_overread hover, rfl, rfl, rfl, fun _ => rfl⟩

end Sys2Proof.Machine
end

section
/-! Decoder and encoder against each other (R61 to R63), the opcode table (R62), the status port (R66), the assembler's
lines (R73). -/

namespace Sys2Proof

/-! ### A word is its three fields -/

/-- R61: `OP`, `RSV` and `N` cover the word. -/
theorem cmdWord_ext_of_fields {w v : CmdWord} (hop : opField w = opField v) (hrsv : rsvField w = rsvField v)
    (hn : widthField w = widthField v) : w = v := by
  have hop := congrArg BitVec.toNat hop
  have hrsv := congrArg BitVec.toNat hrsv
  have hn := congrArg BitVec.toNat hn
  rw [opField_toNat, opField_toNat] at hop
  rw [rsvField_toNat, rsvField_toNat] at hrsv
  rw [widthField_toNat, widthField_toNat] at hn
  apply BitVec.eq_of_toNat_eq
  omega

theorem eq_encode_iff_fields {w : CmdWord} {i : Instr} :
    w = encode i ↔ opField w = opCode i ∧ rsvField w = 0 ∧ widthField w = widthCode i := by
  rw [← opField_encode i, ← rsvField_encode i, ← widthField_encode i]
  constructor
  · rintro rfl
    exact ⟨rfl, rfl, rfl⟩
  · rintro ⟨hop, hrsv, hn⟩
    exact cmdWord_ext_of_fields hop hrsv hn

/-- R68: the decoder inverts the encoder on the well-formed instructions, and reads nothing else. -/
theorem decode_eq_ok_iff_eq_encode {w : CmdWord} {i : Instr} :
    decode w = .ok i ↔ w = encode i ∧ i.wellFormed = true := by
  rw [decode_eq_ok, eq_encode_iff_fields, and_assoc, and_assoc]

/-- Settles O7: the fields of an encoded word are the instruction's. -/
theorem decodeOfEncodeIsTheInstruction : Obligations.DecodeOfEncodeIsTheInstruction :=
  fun _ hwf => decode_eq_ok_iff_eq_encode.2 ⟨rfl, hwf⟩

/-- Settles O8: the fields of a word that decodes are the instruction's, and fields determine a word. -/
theorem encodeOfDecodeIsTheWord : Obligations.EncodeOfDecodeIsTheWord := by
  intro w i h
  obtain ⟨hw, hwf⟩ := decode_eq_ok_iff_eq_encode.1 h
  exact ⟨hw.symm, hwf⟩

/-! ### The opcode table -/

theorem and_allOnes_eq_iff {w m : CmdWord} : w &&& 0xFFFFFFFF#32 = m ↔ w = m := by
  rw [show 0xFFFFFFFF#32 = BitVec.allOnes 32 from rfl, BitVec.and_allOnes]

/-- The mask of the `READ_BITS` row keeps the bits from 6 on. -/
theorem and_readBitsMask_eq_iff {w : CmdWord} :
    w &&& 0xFFFFFFC0#32 = 0x20000000#32 ↔ w.toNat / 64 = 2 ^ 23 := by
  have hmask : w &&& 0xFFFFFFC0#32 = w >>> 6 <<< 6 := by
    apply BitVec.eq_of_getLsbD_eq
    intro i hi
    have hbit : (0xFFFFFFC0#32).getLsbD i = decide (6 ≤ i) := by
      revert i
      decide
    by_cases h6 : 6 ≤ i
    · simp [hbit, h6, hi, show 6 + (i - 6) = i by omega, Nat.not_lt.2 h6]
    · simp [hbit, h6, Nat.lt_of_not_le h6]
  have hlt := w.isLt
  rw [hmask, ← BitVec.toNat_inj, BitVec.toNat_shiftLeft, BitVec.toNat_ushiftRight, Nat.shiftLeft_eq,
    Nat.shiftRight_eq_div_pow]
  simp only [BitVec.toNat_ofNat]
  omega

/-- R61, R62: a word of `READ_BITS` in the numbers of the table. -/
theorem eq_encode_readBits_iff {w : CmdWord} {n : BitVec 6} :
    w = encode (.readBits n) ↔ w.toNat / 64 = 2 ^ 23 ∧ n.toNat = w.toNat % 64 := by
  have hn := n.isLt
  rw [← BitVec.toNat_inj, encode_toNat, show opCode (.readBits n) = 0x2#4 from rfl,
    show widthCode (.readBits n) = n from rfl]
  simp only [BitVec.toNat_ofNat]
  omega

/-- The row of an instruction without a field fixes its whole word. -/
theorem decode_eq_ok_iff_row_of_plain {w : CmdWord} {i : Instr} (hplain : ∀ n, i ≠ .readBits n) :
    decode w = .ok i ↔ w &&& rowMask i = rowMatch i := by
  have hword : rowMask i = 0xFFFFFFFF#32 ∧ rowMatch i = encode i ∧ i.wellFormed = true := by
    cases i with
    | readBits n => exact absurd rfl (hplain n)
    | _ => decide
  obtain ⟨hmask, hmatch, hwf⟩ := hword
  rw [decode_eq_ok_iff_eq_encode, hmask, hmatch, and_allOnes_eq_iff, and_iff_left hwf]

/-- Settles O9: a row without a field fixes the word, and the `READ_BITS` row leaves the six bits of the width. -/
theorem decoderAgreesWithTheOpcodeTable : Obligations.DecoderAgreesWithTheOpcodeTable := by
  intro w i
  by_cases hplain : ∀ n, i ≠ .readBits n
  · rw [decode_eq_ok_iff_row_of_plain hplain]
    exact (and_iff_left fun n hn => absurd hn (hplain n)).symm
  · push Not at hplain
    obtain ⟨n, rfl⟩ := hplain
    rw [decode_eq_ok_iff_eq_encode, eq_encode_readBits_iff, wellFormed_readBits]
    simp only [rowMask, rowMatch, and_readBitsMask_eq_iff, Instr.readBits.injEq, forall_eq', and_assoc]

/-- Settles O5: the decoder, run on each sample word. -/
theorem wordsOfTheOpcodeMapDecode : Obligations.WordsOfTheOpcodeMapDecode := by
  unfold Obligations.WordsOfTheOpcodeMapDecode
  decide

end Sys2Proof

namespace Sys2Proof.Machine

open Sys2Proof

/-! ### The status port and the assembler -/

/-- Settles O11: the three accessors read the bits that `statusWord` places. -/
theorem statusPortLayout : Obligations.StatusPortLayout := by
  rintro ⟨v, st⟩ ill neg uef rfl
  have hill := ill_statusWord v ill neg uef
  have hneg := neg_statusWord v ill neg uef
  have huef := uef_statusWord v ill neg uef
  exact ⟨hill, hneg, huef, hill, hneg, huef⟩

theorem disassemble_word {w : CmdWord} (hw : legal w = false) :
    (AsmCmd.word w : AsmCmd).request.disassemble = .word w := by
  obtain ⟨e, he⟩ := exists_decode_eq_error_of_illegal hw
  have hdec : decode (AsmCmd.word w : AsmCmd).request.cmd = .error e := he
  simp only [Request.disassemble, hdec]
  rfl

/-- Settles O55: each line's word decodes to its command, whose operands are then read from the ports; only a width and a
raw word need the premises. -/
theorem assemblerLinesRoundTrip : Obligations.AssemblerLinesRoundTrip := by
  intro c hwidth hillegal
  have hdec (i : Instr) (hwf : i.wellFormed = true) : decode (encode i) = .ok i := decode_encode_of_wellFormed hwf
  cases c with
  | readBits n =>
    simp only [AsmCmd.request, Request.disassemble, hdec (.readBits n) (wellFormed_readBits.2 (hwidth n rfl))]
  | word w => exact disassemble_word (hillegal w rfl)
  | init base len => simp only [AsmCmd.request, Request.disassemble, hdec .init rfl]
  | skipBits count => simp only [AsmCmd.request, Request.disassemble, hdec .skipBits rfl]
  | readUe => simp only [AsmCmd.request, Request.disassemble, hdec .readUe rfl]
  | readSe => simp only [AsmCmd.request, Request.disassemble, hdec .readSe rfl]
  | bitsLeft => simp only [AsmCmd.request, Request.disassemble, hdec .bitsLeft rfl]
  | snap => simp only [AsmCmd.request, Request.disassemble, hdec .snap rfl]
  | restore => simp only [AsmCmd.request, Request.disassemble, hdec .restore rfl]

end Sys2Proof.Machine
end

section
/-! The Exp-Golomb reads (41_exp_golomb.md): what a codeword decodes to (R100 to R104, R110 to R113), and that decoding
inverts the codeword format (R70, R71). -/

namespace Sys2Proof.Machine

open Sys2Proof

variable {LEN_W ADDR_W KMAX : Nat}

/-! ### The decode of a codeword at the cursor -/

/-- R70: the cursor stands before `k` zeros and a one. -/
abbrev PrefixAtCursor (s : State LEN_W ADDR_W KMAX) (k : Nat) : Prop :=
  (∀ j < k, streamBit s (s.pos.toNat + j) = false) ∧ streamBit s (s.pos.toNat + k) = true

/-- R102: the value of the codeword of `k` zeros at the cursor. -/
def codewordValue (s : State LEN_W ADDR_W KMAX) (k : Nat) : Nat := 2 ^ k - 1 + readStream s (s.pos.toNat + k + 1) k

/-- R102: the machine past the codeword of `k` zeros, its free values used. -/
def pastCodeword (s : State LEN_W ADDR_W KMAX) (k : Nat) : State LEN_W ADDR_W KMAX :=
  nextDraw (advance (advance s (k + 1)) k)

theorem uePrefix_of_prefixAtCursor {s : State LEN_W ADDR_W KMAX} {k : Nat} (hk : k ≤ KMAX) (h : PrefixAtCursor s k) :
    uePrefix s = some k := uePrefix_eq_some.2 ⟨hk, h.2, h.1⟩

theorem codewordValue_le (s : State LEN_W ADDR_W KMAX) {k n : Nat} (hk : k ≤ n) :
    codewordValue s k ≤ 2 ^ (n + 1) - 2 := two_pow_add_readStream_le s _ hk

/-- R104, R65: a decoded value fits the result port. -/
theorem resultUnsigned_codewordValue (s : State LEN_W ADDR_W KMAX) {k : Nat} (hk : k ≤ 31) :
    (resultUnsigned (codewordValue s k)).toNat = codewordValue s k := by
  have hle := codewordValue_le s hk
  exact resultUnsigned_toNat (by omega)

section
variable (s : State LEN_W ADDR_W KMAX) (k : Nat)
@[simp] theorem pastCodeword_base : (pastCodeword s k).base = s.base := rfl
@[simp] theorem pastCodeword_len : (pastCodeword s k).len = s.len := rfl
@[simp] theorem pastCodeword_snap : (pastCodeword s k).snap = s.snap := rfl
@[simp] theorem pastCodeword_mem : (pastCodeword s k).mem = s.mem := rfl
end

theorem pastCodeword_pos_toNat {s : State LEN_W ADDR_W KMAX} {k : Nat} (h : uePrefix s = some k) :
    (pastCodeword s k).pos.toNat = s.pos.toNat + 2 * k + 1 := by
  rw [pastCodeword, nextDraw_pos, advance_advance_pos_toNat h]

theorem exec_readUe_codeword {s : State} {k : Nat} (h : uePrefix s = some k) :
    exec .readUe s = .next (respond (pastCodeword s k) (resultUnsigned (codewordValue s k)) false false) :=
  exec_readUe_of_some h

theorem exec_readSe_codeword {s : State} {k : Nat} (h : uePrefix s = some k) :
    exec .readSe s = .next (respond (pastCodeword s k) (resultSigned (seMap (codewordValue s k))) false false) :=
  exec_readSe_of_some h

theorem respond_pastCodeword_pos_toNat {s : State LEN_W ADDR_W KMAX} {k : Nat} (h : uePrefix s = some k) (v : Result)
    (i u : Bool) : (respond (pastCodeword s k) v i u).pos.toNat = s.pos.toNat + 2 * k + 1 := by
  rw [respond_pos, pastCodeword_pos_toNat h]

/-- R29: the overread bit after a codeword. -/
theorem neg_pastCodeword_iff {s : State LEN_W ADDR_W KMAX} {k : Nat} (h : uePrefix s = some k) (v : Result)
    (i u : Bool) :
    Response.neg { result := v, st := statusWord i (negFlag (pastCodeword s k)) u } = true
      ↔ s.len.toNat < s.pos.toNat + 2 * k + 1 := by
  rw [neg_of_respond, pastCodeword_pos_toNat h, pastCodeword_len]

/-- Settles O36: the scan finds the `k` zeros, and the cursor never saturates on a codeword. -/
theorem readUeDecodesACodeword : Obligations.ReadUeDecodesACodeword := by
  refine ⟨decode_encode_of_wellFormed (i := .readUe) rfl, fun s k hk hzeros hone => ?_⟩
  have hsome := uePrefix_of_prefixAtCursor hk ⟨hzeros, hone⟩
  exact ⟨_, _, exec_readUe_codeword hsome, respond_response _ _ _ _, resultUnsigned_codewordValue s hk,
    respond_pastCodeword_pos_toNat hsome _ _ _, ill_statusWord _ _ _ _, uef_statusWord _ _ _ _, neg_pastCodeword_iff hsome _ _ _,
    rfl, rfl, rfl, fun _ => rfl⟩

/-! ### The signed map -/

theorem seMap_eq_ite (v : Nat) : seMap v = if v % 2 = 1 then ((v : Int) + 1) / 2 else -((v : Int) / 2) := by
  rw [seMap]
  split <;> omega

/-- R113: the map is within half the bound of its argument. -/
theorem seMap_bounds {v : Nat} (hv : v ≤ 2 ^ 32 - 2) : -(2 ^ 31 - 1) ≤ seMap v ∧ seMap v ≤ 2 ^ 31 - 1 := by
  rw [seMap_eq_ite]
  split <;> omega

/-- R71, R111: the map undoes the numbering of the signed values. -/
theorem seMap_seIndex (z : Int) : seMap (seIndex z) = z := by
  rw [seIndex]
  split
  next hpos =>
    obtain ⟨m, rfl⟩ : ∃ m : Nat, z = m + 1 := ⟨(z - 1).toNat, by omega⟩
    rw [show (2 * ((m : Int) + 1) - 1).toNat = 2 * m + 1 by omega, seMap_odd]
  next hneg =>
    obtain ⟨m, rfl⟩ : ∃ m : Nat, z = -m := ⟨(-z).toNat, by omega⟩
    rw [show (-(2 * -(m : Int))).toNat = 2 * m by omega, seMap_even]

theorem seIndex_seMap (v : Nat) : seIndex (seMap v) = v := by
  rw [seMap_eq_ite, seIndex]
  split <;> split <;> omega

theorem seIndex_le {z : Int} (hlo : -(2 ^ 31 - 1) ≤ z) (hhi : z ≤ 2 ^ 31 - 1) : seIndex z ≤ 2 ^ 32 - 2 := by
  rw [seIndex]
  split <;> omega

/-- Settles O42: the numbering of the signed values is the inverse of the map. -/
theorem signedMapIsABijection : Obligations.SignedMapIsABijection := by
  intro z hlo hhi
  refine ⟨seIndex z, ⟨seIndex_le hlo hhi, seMap_seIndex z⟩, ?_⟩
  rintro v ⟨-, rfl⟩
  exact (seIndex_seMap v).symm

/-- R113, R65: a decoded signed value fits the result port. -/
theorem resultSigned_seMap {v : Nat} (hv : v ≤ 2 ^ 32 - 2) : (resultSigned (seMap v)).toInt = seMap v := by
  obtain ⟨hlo, hhi⟩ := seMap_bounds hv
  exact resultSigned_toInt (by omega) (by omega)

theorem resultSigned_codewordValue (s : State LEN_W ADDR_W KMAX) {k : Nat} (hk : k ≤ 31) :
    (resultSigned (seMap (codewordValue s k))).toInt = seMap (codewordValue s k) :=
  resultSigned_seMap (codewordValue_le s hk)

/-- Settles O37: the decode of `READ_UE` with the signed map on its value. -/
theorem readSeDecodesACodeword : Obligations.ReadSeDecodesACodeword := by
  refine ⟨decode_encode_of_wellFormed (i := .readSe) rfl, fun s k hk hzeros hone => ?_⟩
  have hsome := uePrefix_of_prefixAtCursor hk ⟨hzeros, hone⟩
  refine ⟨_, _, exec_readSe_codeword hsome, respond_response _ _ _ _, ?_, respond_pastCodeword_pos_toNat hsome _ _ _,
    ill_statusWord _ _ _ _, uef_statusWord _ _ _ _, neg_pastCodeword_iff hsome _ _ _, rfl, rfl, rfl, fun _ => rfl⟩
  rintro v rfl
  exact (resultSigned_codewordValue s hk).trans (seMap_eq_ite _)

/-! ### The sentinels -/

/-- The failure bit and the sentinel of a `READ_UE` stand together: no decoded value is the sentinel (R104). -/
theorem resultUnsigned_codewordValue_ne_sentinel (s : State LEN_W ADDR_W KMAX) {k : Nat} (hk : k ≤ 31) :
    resultUnsigned (codewordValue s k) ≠ 0xFFFFFFFF#64 := by
  intro h
  have hle := codewordValue_le s hk
  have hval := congrArg BitVec.toNat h
  rw [resultUnsigned_codewordValue s hk] at hval
  simp only [BitVec.toNat_ofNat] at hval
  omega

/-- R113: no decoded signed value is the sentinel. -/
theorem resultSigned_codewordValue_ne_sentinel (s : State LEN_W ADDR_W KMAX) {k : Nat} (hk : k ≤ 31) :
    resultSigned (seMap (codewordValue s k)) ≠ 0xFFFFFFFF80000000#64 := by
  intro h
  obtain ⟨hlo, -⟩ := seMap_bounds (codewordValue_le s hk)
  have hval := congrArg BitVec.toInt h
  rw [resultSigned_codewordValue s hk, show (0xFFFFFFFF80000000#64).toInt = -2 ^ 31 by decide] at hval
  omega

/-- Settles O39: a failed decode answers the sentinel, which lies just below the range of the map. -/
theorem readSeSentinelMarksExactlyTheFailures : Obligations.ReadSeSentinelMarksExactlyTheFailures := by
  intro s
  cases h : uePrefix s with
  | none =>
    refine ⟨_, _, exec_readSe_of_none h, respond_response _ _ _ _, ?_, ?_⟩
    · exact iff_of_true (uef_statusWord _ _ _ _) rfl
    · simp
  | some k =>
    obtain ⟨hk, -⟩ := uePrefix_eq_some.1 h
    refine ⟨_, _, exec_readSe_codeword h, respond_response _ _ _ _, ?_, fun _ => ?_⟩
    · exact iff_of_false (by simp) (resultSigned_codewordValue_ne_sentinel s hk)
    · exact (resultSigned_codewordValue s hk).symm ▸ seMap_bounds (codewordValue_le s hk)

theorem execAt_readUe_of_some {s : State LEN_W ADDR_W KMAX} {k : Nat} (h : uePrefix s = some k) :
    execAt .readUe s = .next (respond (pastCodeword s k) (resultUnsigned (codewordValue s k)) false false) := by
  simp only [execAt, execReadUe, ueDecode_of_some h, pastCodeword, codewordValue]

theorem execAt_readUe_of_none {s : State LEN_W ADDR_W KMAX} (h : uePrefix s = none) :
    execAt .readUe s = .next (respond (nextDraw (ueFail s)) (resultUnsigned ueSentinel) false true) := by
  simp only [execAt, execReadUe, ueDecode_of_none h]

/-- R104 at any parameters with a `KMAX` of at most 31. -/
theorem readUe_succeeds_iff_prefix (s : State LEN_W ADDR_W KMAX) (hK : KMAX ≤ 31) :
    ∃ t r, execAt .readUe s = .next t ∧ t.response = some r
      ∧ (r.uef = false → r.result.toNat ≤ 2 ^ (KMAX + 1) - 2)
      ∧ (r.uef = false ↔
          ∃ k ≤ KMAX, streamBit s (s.pos.toNat + k) = true ∧ ∀ j < k, streamBit s (s.pos.toNat + j) = false) := by
  cases h : uePrefix s with
  | none =>
    refine ⟨_, _, execAt_readUe_of_none h, respond_response _ _ _ _, by simp, iff_of_false (by simp) ?_⟩
    rintro ⟨k, hk⟩
    cases h.symm.trans (uePrefix_eq_some.2 hk)
  | some k =>
    have hprefix := uePrefix_eq_some.1 h
    refine ⟨_, _, execAt_readUe_of_some h, respond_response _ _ _ _, fun _ => ?_, iff_of_true (by simp) ⟨k, hprefix⟩⟩
    exact (resultUnsigned_codewordValue s (hprefix.1.trans hK)).trans_le (codewordValue_le s hprefix.1)

/-- Settles O40: a failed decode answers the sentinel, the number just above the range of a decoded value. -/
theorem readUeSentinelMarksExactlyTheFailures : Obligations.ReadUeSentinelMarksExactlyTheFailures := by
  refine ⟨fun s => ?_, fun _ _ _ s hK => readUe_succeeds_iff_prefix s hK⟩
  cases h : uePrefix s with
  | none =>
    refine ⟨_, _, exec_readUe_of_none h, respond_response _ _ _ _, ?_, ?_⟩
    · exact iff_of_true (uef_statusWord _ _ _ _) rfl
    · simp
  | some k =>
    obtain ⟨hk, -⟩ := uePrefix_eq_some.1 h
    refine ⟨_, _, exec_readUe_codeword h, respond_response _ _ _ _, ?_, fun _ => ?_⟩
    · exact iff_of_false (by simp) (resultUnsigned_codewordValue_ne_sentinel s hk)
    · exact (resultUnsigned_codewordValue s hk).trans_le (codewordValue_le s hk)

/-! ### A suffix past the end -/

/-- R54, R43: of a run that ends past the buffer only the first `m` bits count, the rest is fill. -/
theorem readStream_of_end_le {s : State LEN_W ADDR_W KMAX} {p m n : Nat} (hmn : m ≤ n) (hend : s.len.toNat ≤ p + m) :
    readStream s p n = readStream s p m * 2 ^ (n - m) := by
  have hsplit := readStream_add s p m (n - m)
  rwa [Nat.add_sub_cancel' hmn, readStream_of_le hend, Nat.add_zero] at hsplit

/-- Settles O41: the decode does not ask whether the suffix is in the buffer, and past the end it reads fill. -/
theorem suffixPastTheEndIsNoFailure : Obligations.SuffixPastTheEndIsNoFailure := by
  intro s k hk hzeros hone hover
  have hsome := uePrefix_of_prefixAtCursor hk ⟨hzeros, hone⟩
  have hone_in := lt_len_of_streamBit hone
  have hpos := pastCodeword_pos_toNat hsome
  refine ⟨_, _, exec_readUe_codeword hsome, respond_response _ _ _ _, uef_statusWord _ _ _ _,
    (neg_pastCodeword_iff hsome _ _ _).2 hover, ?_, respond_pastCodeword_pos_toNat hsome _ _ _, ?_⟩
  · have hover' : Overread (pastCodeword s k) := hover.trans_eq hpos.symm
    exact Int.lt_of_le_of_lt (bitsLeft_le_neg_one_of_overread hover') (by decide)
  · rintro m rfl
    have hm : s.len.toNat - (s.pos.toNat + k + 1) < k := by omega
    refine ⟨hm, (resultUnsigned_codewordValue s hk).trans ?_⟩
    rw [codewordValue, readStream_of_end_le hm.le (by omega)]

/-! ### The codeword format -/

@[simp] theorem length_bitsOf (v n : Nat) : (bitsOf v n).length = n := by
  induction n with
  | zero => rfl
  | succ n ih => rw [bitsOf, List.length_cons, ih]

theorem getElem_bitsOf (v n : Nat) {i : Nat} (h : i < (bitsOf v n).length) :
    (bitsOf v n)[i] = v.testBit (n - 1 - i) := by
  induction n generalizing i with
  | zero => exact absurd h (Nat.not_lt_zero i)
  | succ n ih =>
    cases i with
    | zero => rfl
    | succ i =>
      have hi : i < (bitsOf v n).length := by simpa [bitsOf] using h
      calc (bitsOf v (n + 1))[i + 1] = (bitsOf v n)[i] := rfl
        _ = v.testBit (n - 1 - i) := ih hi
        _ = v.testBit (n + 1 - 1 - (i + 1)) := by congr 1; omega

/-- R54: the low bits of a value, most significant first, read as that value. -/
theorem readStream_of_testBit {s : State LEN_W ADDR_W KMAX} {p n v : Nat}
    (h : ∀ i < n, streamBit s (p + i) = v.testBit (n - 1 - i)) : readStream s p n = v % 2 ^ n := by
  induction n generalizing v with
  | zero => simp [Nat.mod_one]
  | succ n ih =>
    have hhigh : readStream s p n = v / 2 % 2 ^ n := by
      refine ih fun i hi => ?_
      rw [h i (by omega), Nat.testBit_div_two]
      congr 1
      omega
    have hlow : (streamBit s (p + n)).toNat = v % 2 := by
      rw [h n (by omega), show n + 1 - 1 - n = 0 by omega, Nat.testBit_zero]
      rcases Nat.mod_two_eq_zero_or_one v with hv | hv <;> simp [hv]
    rw [readStream, hhigh, hlow, Nat.pow_succ', Nat.mod_mul, Nat.add_comm]

theorem length_ueCodeword (v : Nat) : (ueCodeword v).length = 2 * ueZeros v + 1 := by
  simp only [ueCodeword, List.length_append, List.length_replicate, List.length_cons, length_bitsOf]
  omega

theorem two_pow_ueZeros_le (v : Nat) : 2 ^ ueZeros v ≤ v + 1 := Nat.log2_self_le (by omega)

theorem lt_two_pow_ueZeros_succ (v : Nat) : v + 1 < 2 ^ (ueZeros v + 1) := Nat.lt_log2_self

/-- R104, R7: the codewords of the values up to `2^32 - 2` have at most 31 zeros. -/
theorem ueZeros_le_31 {v : Nat} (hv : v ≤ 2 ^ 32 - 2) : ueZeros v ≤ 31 :=
  Nat.le_of_lt_succ ((Nat.log2_lt (by omega)).2 (by omega))

/-- G3: the codeword of `v` is at the cursor. -/
abbrev CodewordAtCursor (s : State LEN_W ADDR_W KMAX) (v : Nat) : Prop :=
  ∀ i (h : i < (ueCodeword v).length), streamBit s (s.pos.toNat + i) = (ueCodeword v)[i]

section
variable {s : State LEN_W ADDR_W KMAX} {v : Nat} (h : CodewordAtCursor s v)
include h

theorem CodewordAtCursor.prefixAtCursor : PrefixAtCursor s (ueZeros v) := by
  have hlen := length_ueCodeword v
  constructor
  · intro j hj
    rw [h j (by omega)]
    simp only [ueCodeword]
    rw [List.getElem_append_left (by simpa using hj), List.getElem_replicate]
  · rw [h (ueZeros v) (by omega)]
    simp [ueCodeword]

theorem CodewordAtCursor.suffix : ∀ i < ueZeros v, streamBit s (s.pos.toNat + ueZeros v + 1 + i)
    = (v + 1 - 2 ^ ueZeros v).testBit (ueZeros v - 1 - i) := by
  intro i hi
  have hlen := length_ueCodeword v
  rw [show s.pos.toNat + ueZeros v + 1 + i = s.pos.toNat + (ueZeros v + (i + 1)) by omega, h _ (by omega)]
  simp only [ueCodeword]
  rw [List.getElem_append_right (by simp)]
  simp [getElem_bitsOf]

/-- R72, G3: the decode inverts the codeword format. -/
theorem CodewordAtCursor.codewordValue_eq : codewordValue s (ueZeros v) = v := by
  have hlo := two_pow_ueZeros_le v
  have hhi := lt_two_pow_ueZeros_succ v
  rw [pow_succ] at hhi
  rw [codewordValue, readStream_of_testBit h.suffix, Nat.mod_eq_of_lt (by omega)]
  have hpos := Nat.two_pow_pos (ueZeros v)
  omega

end

/-- Settles O43: the scan stops after the zeros, the suffix bits give the rest of the value, and the codeword's length is what
the decode consumes. -/
theorem unsignedCodewordRoundTrip : Obligations.UnsignedCodewordRoundTrip := by
  intro s v hv hbits
  have hcode : CodewordAtCursor s v := hbits
  have hk := ueZeros_le_31 hv
  have hsome := uePrefix_of_prefixAtCursor hk hcode.prefixAtCursor
  refine ⟨_, _, exec_readUe_codeword hsome, respond_response _ _ _ _, ?_, uef_statusWord _ _ _ _, ?_⟩
  · exact (resultUnsigned_codewordValue s hk).trans hcode.codewordValue_eq
  · rw [length_ueCodeword]
    exact respond_pastCodeword_pos_toNat hsome _ _ _

/-- Settles O44: the codeword is that of the value's number, which the signed map takes back to the value. -/
theorem signedCodewordRoundTrip : Obligations.SignedCodewordRoundTrip := by
  intro s z hlo hhi hbits
  have hcode : CodewordAtCursor s (seIndex z) := hbits
  have hk := ueZeros_le_31 (seIndex_le hlo hhi)
  have hsome := uePrefix_of_prefixAtCursor hk hcode.prefixAtCursor
  refine ⟨_, _, exec_readSe_codeword hsome, respond_response _ _ _ _, ?_, uef_statusWord _ _ _ _, ?_⟩
  · calc (resultSigned (seMap (codewordValue s (ueZeros (seIndex z))))).toInt
        = seMap (codewordValue s (ueZeros (seIndex z))) := resultSigned_codewordValue s hk
      _ = seMap (seIndex z) := by rw [hcode.codewordValue_eq]
      _ = z := seMap_seIndex z
  · rw [seCodeword, length_ueCodeword]
    exact respond_pastCodeword_pos_toNat hsome _ _ _

end Sys2Proof.Machine
end

section
/-! What a command can do, once, and what follows for its frame (10_state.md), its operand ports (30_encoding.md section 1)
and its status bits (60_exceptions.md section 2). -/

namespace Sys2Proof.Machine

open Sys2Proof

variable {LEN_W ADDR_W KMAX : Nat}

/-! ### The moves of a command -/

/-- R24: saturation in two steps is saturation in one. -/
theorem min_add_min (p a b M : Nat) : min (min (p + a) M + b) M = min (p + (a + b)) M := by omega

/-- R24: two advances are one of the sum, saturated or not. -/
theorem advance_advance (s : State LEN_W ADDR_W KMAX) (a b : Nat) :
    advance (advance s a) b = advance s (a + b) := by
  have hpos : saturate (LEN_W := LEN_W) ((advance s a).pos.toNat + b) = saturate (s.pos.toNat + (a + b)) := by
    apply BitVec.eq_of_toNat_eq
    rw [saturate_toNat, saturate_toNat, advance_pos_toNat, min_add_min]
  exact congrArg s.setPos hpos

/-- R105: a failed decode is an advance to the position after the end. -/
theorem ueFail_eq_advance (s : State LEN_W ADDR_W KMAX) :
    ueFail s = advance s (max s.pos.toNat s.len.toNat + 1 - s.pos.toNat) := by
  rw [ueFail, advance, Nat.add_sub_cancel' (by omega)]

/-- R24: an advance never moves the cursor back. -/
theorem pos_le_advance_pos (s : State LEN_W ADDR_W KMAX) (n : Nat) : s.pos.toNat ≤ (advance s n).pos.toNat := by
  have hpos := s.pos.isLt
  rw [advance_pos_toNat]
  omega

/-- What performing a command is: a session begun, a snapshot taken or returned to, or a move of the cursor forward. -/
inductive Performs (s : State) : Instr → State → Prop
  | init : Performs s .init (respond (startSession s s.port.argA s.port.argB) 0 false false)
  | snap : Performs s .snap (respond (s.setSnap s.pos) 0 false false)
  | restore : Performs s .restore (respond (s.setPos s.snap) 0 false false)
  | bitsLeft : Performs s .bitsLeft (respond s (resultBitsLeft 32 (Machine.bitsLeft s)) false false)
  | skip : Performs s .skipBits (respond (advance s s.port.argB.toNat) 0 false false)
  | read {i : Instr} (hreads : readsStream i = true) (n : Nat) (v : Result) :
      Performs s i (respond (nextDraw (advance s n)) v false false)
  | fail {i : Instr} (hi : i = .readUe ∨ i = .readSe) (v : Result) :
      Performs s i (respond (nextDraw (ueFail s)) v false true)
  | tooWide {n : BitVec 6} (hn : 32 < n.toNat) : Performs s (.readBits n) (illegalCommand s)

theorem performs_of_exec {i : Instr} {s t : State} (h : exec i s = .next t) : Performs s i t := by
  cases i with
  | init => cases (exec_init s).symm.trans h; exact .init
  | readBits n =>
    rcases Nat.lt_or_ge 32 n.toNat with hn | hn
    · cases (exec_readBits_illegal hn s).symm.trans h
      exact .tooWide hn
    · cases (exec_readBits hn s).symm.trans h
      exact .read rfl _ _
  | skipBits => cases (exec_skipBits s).symm.trans h; exact .skip
  | readUe =>
    cases hk : uePrefix s with
    | none => cases (exec_readUe_of_none hk).symm.trans h; exact .fail (.inl rfl) _
    | some k =>
      cases (exec_readUe_of_some hk).symm.trans h
      rw [advance_advance]
      exact .read rfl _ _
  | readSe =>
    cases hk : uePrefix s with
    | none => cases (exec_readSe_of_none hk).symm.trans h; exact .fail (.inr rfl) _
    | some k =>
      cases (exec_readSe_of_some hk).symm.trans h
      rw [advance_advance]
      exact .read rfl _ _
  | bitsLeft => cases (exec_bitsLeft s).symm.trans h; exact .bitsLeft
  | snap => cases (exec_snap s).symm.trans h; exact .snap
  | restore => cases (exec_restore s).symm.trans h; exact .restore

/-! ### What each command leaves -/

section
variable {i : Instr} {s t : State}

/-- R21, R26: only `INIT` writes `BASE` and `LEN`, and begins a session in which nothing is disturbed. -/
theorem exec_keeps_session (h : exec i s = .next t) (hi : i ≠ .init) :
    t.base = s.base ∧ t.len = s.len ∧ t.disturbed = s.disturbed := by
  cases performs_of_exec h with
  | init => exact absurd rfl hi
  | _ => exact ⟨rfl, rfl, rfl⟩

/-- R25: only `INIT` and `SNAP` write the snapshot. -/
theorem exec_keeps_snap (h : exec i s = .next t) (hinit : i ≠ .init) (hsnap : i ≠ .snap) : t.snap = s.snap := by
  cases performs_of_exec h with
  | init => exact absurd rfl hinit
  | snap => exact absurd rfl hsnap
  | _ => rfl

/-- R23: only `INIT` and `RESTORE` move the cursor back. -/
theorem exec_pos_le (h : exec i s = .next t) (hinit : i ≠ .init) (hrestore : i ≠ .restore) :
    s.pos.toNat ≤ t.pos.toNat := by
  cases performs_of_exec h with
  | init => exact absurd rfl hinit
  | restore => exact absurd rfl hrestore
  | snap | bitsLeft | tooWide => exact le_refl _
  | skip | read => exact pos_le_advance_pos s _
  | fail =>
    rw [ueFail_eq_advance]
    exact pos_le_advance_pos s _

/-- R49, log 7: the free values of a legal reading command are used once. -/
theorem exec_draws (h : exec i s = .next t) (hwf : i.wellFormed = true) :
    t.draws = if readsStream i = true then s.draws + 1 else s.draws := by
  cases performs_of_exec h with
  | read hreads => rw [if_pos hreads]; rfl
  | fail hi =>
    rw [if_pos (by rcases hi with rfl | rfl <;> rfl)]
    rfl
  | tooWide hn => exact absurd (wellFormed_readBits.1 hwf) (by omega)
  | _ => rfl

theorem exec_keeps_pos (h : exec i s = .next t) (hi : i = .bitsLeft ∨ i = .snap) : t.pos = s.pos := by
  rcases hi with rfl | rfl
  · cases (exec_bitsLeft s).symm.trans h; rfl
  · cases (exec_snap s).symm.trans h; rfl

/-- R40: no command stores, and none changes what the host and the system hold. -/
theorem exec_keeps_surroundings (h : exec i s = .next t) :
    t.mem = s.mem ∧ t.devices = s.devices ∧ t.port = s.port ∧ t.inputs = s.inputs ∧ t.unitNo = s.unitNo := by
  obtain ⟨u, v, ill, uef, hu, hkeeps⟩ := exec_eq_respond i s
  cases hu.symm.trans h
  exact hkeeps

end

/-- Settles O45: each register and field by the list of the commands that write it. -/
theorem commandsLeaveTheRestAlone : Obligations.CommandsLeaveTheRestAlone := by
  intro i s t h
  obtain ⟨hmem, hdev, hport, hin, hunit⟩ := exec_keeps_surroundings h
  have hbytes : KeepsMemory s t := fun a => by rw [memRead, memRead, hmem]
  exact ⟨hbytes, hmem, hdev, hport, hin, hunit, exec_keeps_session h, exec_keeps_snap h, exec_keeps_pos h, exec_draws h⟩

/-- Settles O25: no other command moves the cursor but forward; `RESTORE` moves it to the snapshot, which the invariant
keeps behind it. -/
theorem onlyInitAndRestoreMoveTheCursorBack : Obligations.OnlyInitAndRestoreMoveTheCursorBack := by
  refine ⟨fun i s t h => exec_pos_le h, fun s t hinv h => ?_⟩
  cases (exec_restore s).symm.trans h
  exact hinv.1

/-! ### What a command depends on -/

/-- R32: the two machines stand at the same position of the same stream for `n` positions on. -/
structure SameAhead (n : Nat) (s u : State LEN_W ADDR_W KMAX) : Prop where
  pos : u.pos = s.pos
  bits : ∀ j < n, streamBit u (s.pos.toNat + j) = streamBit s (s.pos.toNat + j)

section
variable {s u : State LEN_W ADDR_W KMAX} {n : Nat}

theorem SameAhead.uePrefix_eq (h : SameAhead n s u) (hn : KMAX < n) : uePrefix u = uePrefix s := by
  refine Option.ext fun k => ?_
  rw [uePrefix_eq_some, uePrefix_eq_some, h.pos]
  refine and_congr_right fun hk => ?_
  rw [h.bits k (by omega)]
  refine and_congr_right fun _ => forall₂_congr fun _ hj => ?_
  rw [h.bits _ (by omega)]

theorem SameAhead.readStream_eq (h : SameAhead n s u) {a b : Nat} (hab : a + b ≤ n) :
    readStream u (u.pos.toNat + a) b = readStream s (s.pos.toNat + a) b := by
  rw [h.pos]
  refine readStream_congr fun i hi => ?_
  rw [Nat.add_assoc]
  exact h.bits (a + i) (by omega)

theorem SameAhead.codewordValue_eq (h : SameAhead n s u) {k : Nat} (hk : 2 * k + 1 ≤ n) :
    codewordValue u k = codewordValue s k := by
  have hread := h.readStream_eq (a := k + 1) (b := k) (by omega)
  rw [codewordValue, codewordValue, Nat.add_assoc, Nat.add_assoc, hread]

end

/-- The host has put other words on the ports and other bytes in the memory. -/
def withHost (s : State) (m : Memory) (p : Request) : State := (s.setMem m).setPort p

theorem withHost_eq_setPort {s : State} {m : Memory} {p : Request} (h : s.mem = m) : withHost s m p = s.setPort p := by
  rw [← h]
  rfl

theorem withHost_eq_setMem {s : State} {m : Memory} {p : Request} (h : s.port = p) : withHost s m p = s.setMem m := by
  rw [← h]
  rfl

/-- R44, R46, R60: the bytes and the operands that a command uses. -/
structure SameUsed (i : Instr) (s : State) (m : Memory) (p : Request) : Prop where
  argA : usesArgA i = true → p.argA = s.port.argA
  argB : usesArgB i = true → p.argB = s.port.argB
  bytes : ∀ q, s.pos.toNat ≤ q → q < s.pos.toNat + window i → q < s.len.toNat →
    m.read (byteAddr s q).toNat = s.mem.read (byteAddr s q).toNat

theorem SameUsed.sameAhead {i : Instr} {s : State} {m : Memory} {p : Request} (h : SameUsed i s m p) :
    SameAhead (window i) s (withHost s m p) :=
  ⟨rfl, fun _ hj => streamBit_congr rfl rfl rfl rfl rfl rfl fun hlt =>
    h.bytes _ (Nat.le_add_right _ _) (Nat.add_lt_add_left hj _) hlt⟩

/-- R32, R60, R46: a command does the same with the rest, the ports and the bytes it does not use aside. -/
theorem exec_withHost {i : Instr} {s t : State} {m : Memory} {p : Request} (h : SameUsed i s m p)
    (ht : exec i s = .next t) : exec i (withHost s m p) = .next (withHost t m p) := by
  have hahead := h.sameAhead
  cases i with
  | init =>
    cases (exec_init s).symm.trans ht
    rw [exec_init, show (withHost s m p).port = p from rfl, h.argA rfl, h.argB rfl]
    rfl
  | readBits n =>
    rcases Nat.lt_or_ge 32 n.toNat with hn | hn
    · cases (exec_readBits_illegal hn s).symm.trans ht
      exact exec_readBits_illegal hn _
    · cases (exec_readBits hn s).symm.trans ht
      have hread := hahead.readStream_eq (a := 0) (b := n.toNat) (by rw [window, Nat.zero_add])
      simp only [Nat.add_zero] at hread
      rw [exec_readBits hn, hread]
      rfl
  | skipBits =>
    cases (exec_skipBits s).symm.trans ht
    rw [exec_skipBits, show (withHost s m p).port = p from rfl, h.argB rfl]
    rfl
  | readUe =>
    have hprefix := hahead.uePrefix_eq (by decide)
    cases hk : uePrefix s with
    | none =>
      cases (exec_readUe_of_none hk).symm.trans ht
      exact exec_readUe_of_none (hprefix.trans hk)
    | some k =>
      obtain ⟨hle, -⟩ := uePrefix_eq_some.1 hk
      cases (exec_readUe_codeword hk).symm.trans ht
      rw [exec_readUe_codeword (hprefix.trans hk), hahead.codewordValue_eq (by rw [window, Config.KMAX_eq]; omega)]
      rfl
  | readSe =>
    have hprefix := hahead.uePrefix_eq (by decide)
    cases hk : uePrefix s with
    | none =>
      cases (exec_readSe_of_none hk).symm.trans ht
      exact exec_readSe_of_none (hprefix.trans hk)
    | some k =>
      obtain ⟨hle, -⟩ := uePrefix_eq_some.1 hk
      cases (exec_readSe_codeword hk).symm.trans ht
      rw [exec_readSe_codeword (hprefix.trans hk), hahead.codewordValue_eq (by rw [window, Config.KMAX_eq]; omega)]
      rfl
  | bitsLeft => cases (exec_bitsLeft s).symm.trans ht; exact exec_bitsLeft _
  | snap => cases (exec_snap s).symm.trans ht; exact exec_snap _
  | restore => cases (exec_restore s).symm.trans ht; exact exec_restore _

/-- R60: a command does the same whatever is on a port it does not use. -/
theorem exec_setPort {i : Instr} {s t : State} {p : Request} (hA : usesArgA i = true → p.argA = s.port.argA)
    (hB : usesArgB i = true → p.argB = s.port.argB) (ht : exec i s = .next t) :
    exec i (s.setPort p) = .next (t.setPort p) := by
  obtain ⟨hmem, -⟩ := exec_keeps_surroundings ht
  have h := exec_withHost (m := s.mem) ⟨hA, hB, fun _ _ _ _ => rfl⟩ ht
  rwa [withHost_eq_setPort rfl, withHost_eq_setPort hmem] at h

/-- Settles O46: the port left alone is not among the operands the command uses. -/
theorem unusedOperandPortsAreIgnored : Obligations.UnusedOperandPortsAreIgnored := by
  intro i s t ht
  refine ⟨fun hA a => exec_setPort ?_ (fun _ => rfl) ht, fun hB b => exec_setPort (fun _ => rfl) ?_ ht,
    fun w => exec_setPort (fun _ => rfl) (fun _ => rfl) ht⟩
  · exact fun hA' => absurd (hA.symm.trans hA') (by decide)
  · exact fun hB' => absurd (hB.symm.trans hB') (by decide)

/-- Settles O22: an in-buffer position lies in byte `p / 8` of the buffer, and a command sees the memory through the stream
bits of its window. -/
theorem commandsReadOnlyTheirPositionsInTheBuffer : Obligations.CommandsReadOnlyTheirPositionsInTheBuffer := by
  refine ⟨fun s p hp => ⟨p / 8, by omega, BitVec.toNat_ofNat _ _⟩, fun i s t m hbytes ht => ?_⟩
  obtain ⟨-, -, hport, -⟩ := exec_keeps_surroundings ht
  have h := exec_withHost (p := s.port) ⟨fun _ => rfl, fun _ => rfl, hbytes⟩ ht
  rwa [withHost_eq_setMem rfl, withHost_eq_setMem hport] at h

end Sys2Proof.Machine
end

section
/-! One step (R27, R60, R150, R160), what the host does between commands (R47 to R52, R165), and the stream it leaves
(R42 to R56). -/

namespace Sys2Proof.Machine

open Sys2Proof

variable {LEN_W ADDR_W KMAX : Nat}

/-! ### The step, one input at a time -/

section
variable {s : State} {rest : List Input}

theorem step_of_no_input (hin : s.inputs = []) : step s = .next s := by
  simp only [step, stepBy, hin, idle]

theorem step_of_memWrite {a : Addr} {b : Byte} (hin : s.inputs = .memWrite a b :: rest) :
    step s = .next (hostWrite (s.setInputs rest) a b) := by
  simp only [step, stepBy, hin]

theorem step_of_mapDevice {a : Addr} (hin : s.inputs = .mapDevice a :: rest) :
    step s = .next (mapDevice (s.setInputs rest) a) := by
  simp only [step, stepBy, hin]

theorem step_of_reset (hin : s.inputs = .reset :: rest) : step s = .next (externalReset (s.setInputs rest)) := by
  simp only [step, stepBy, hin]

theorem step_of_overlap {x y : Request} (hin : s.inputs = .overlap x y :: rest) :
    step s = .refused .overlappingCommands := by
  simp only [step, stepBy, hin]

end

/-- Settles O14: with no input the machine is idle. -/
theorem idleHoldsTheState : Obligations.IdleHoldsTheState := fun _ hin => step_of_no_input hin

/-- I11: the dispatch of the parameters is, at their defaults, that of the fixed names. -/
theorem stepAt_eq_step (s : State) : stepAt s = step s := by
  have hexec : execAt = exec := funext fun i => funext fun s => execAt_default i s
  rw [stepAt, hexec, step]

/-- Settles O12: the step is the decoded command's meaning at the fixed names, as at the parameters' defaults. -/
theorem stepRunsTheDecodedCommand : Obligations.StepRunsTheDecodedCommand :=
  fun s _ _ _ hin hi => ⟨step_of_decode_ok hin hi, stepAt_eq_step s⟩

/-- R140, R145: a command's step answers a next state, whatever its word. -/
theorem exists_step_of_command {s : State} {r : Request} {rest : List Input} (hin : s.inputs = .command r :: rest) :
    ∃ t, step s = .next t := by
  cases hd : decode r.cmd with
  | ok i =>
    rw [step_of_decode_ok hin hd]
    exact exists_exec_eq_next i _
  | error e => exact ⟨_, step_of_decode_error hin hd⟩

/-- Settles O15: each kind of input, in turn. -/
theorem stepStopsOnlyOnOverlappingCommands : Obligations.StepStopsOnlyOnOverlappingCommands := by
  intro s
  cases hin : s.inputs with
  | nil => exact .inl ⟨s, step_of_no_input hin⟩
  | cons x rest =>
    cases x with
    | command r => exact .inl (exists_step_of_command hin)
    | overlap x y => exact .inr ⟨⟨x, y, rest, rfl⟩, step_of_overlap hin⟩
    | memWrite a b => exact .inl ⟨_, step_of_memWrite hin⟩
    | mapDevice a => exact .inl ⟨_, step_of_mapDevice hin⟩
    | reset => exact .inl ⟨_, step_of_reset hin⟩

/-- Settles O2: the reset begins an empty session and forgets the response. -/
theorem resetInputClearsTheRegistersAndKeepsMemory : Obligations.ResetInputClearsTheRegistersAndKeepsMemory :=
  fun _ _ hin => ⟨_, step_of_reset hin, rfl, rfl, rfl, rfl, fun _ => rfl, rfl, rfl, rfl, rfl, rfl, rfl, rfl, rfl⟩

/-! ### A stream bit, by its byte -/

/-- R42: a position in the buffer whose byte is stable reads that byte's bit. -/
theorem streamBit_of_stable {s : State LEN_W ADDR_W KMAX} {p : Nat} (hp : p < s.len.toNat)
    (h : unstable s (byteAddr s p) = false) :
    streamBit s p = (memRead s (byteAddr s p)).getLsbD (7 - p % 8) := by
  rw [streamBit, if_neg (Nat.not_le.2 hp), h, if_neg Bool.false_ne_true]

/-- R49: a position in the buffer whose byte is unstable reads a free value. -/
theorem streamBit_of_unstable {s : State LEN_W ADDR_W KMAX} {p : Nat} (hp : p < s.len.toNat)
    (h : unstable s (byteAddr s p) = true) : streamBit s p = Config.freeBit s.unitNo s.draws p := by
  rw [streamBit, if_neg (Nat.not_le.2 hp), if_pos h]

theorem byteAddr_toNat (s : State LEN_W ADDR_W KMAX) (p : Nat) :
    (byteAddr s p).toNat = (s.base.toNat + p / 8) % 2 ^ ADDR_W := BitVec.toNat_ofNat _ _

theorem byteAddr_congr {s t : State LEN_W ADDR_W KMAX} (hbase : t.base = s.base) (p : Nat) :
    byteAddr t p = byteAddr s p := by rw [byteAddr, byteAddr, hbase]

/-- Settles O19: past the end there is fill; before it the byte is the one of R45, whose address cannot wrap in a buffer
that fits. -/
theorem streamBitIsTheBitOfItsByte : Obligations.StreamBitIsTheBitOfItsByte := by
  intro LEN_W ADDR_W KMAX s p
  refine ⟨streamBit_of_le, fun hp => ⟨byteAddr_toNat s p, fun hfits => ?_, streamBit_of_stable hp⟩⟩
  rw [byteAddr_toNat, Nat.mod_eq_of_lt]
  omega

/-! ### What the host does to memory -/

/-- R49: a byte of the buffer that the host has written is unstable from then on. -/
theorem unstable_hostWrite {s : State} {a : Addr} {b : Byte} (ha : inBuffer s a = true) :
    unstable (hostWrite s a b) a = true :=
  unstable_iff.2 (.inr ((mem_hostWrite_disturbed s a b).2 (.inl ⟨ha, rfl⟩)))

/-- R47, log 6. -/
theorem unstable_mapDevice (s : State LEN_W ADDR_W KMAX) (a : Addr ADDR_W) : unstable (mapDevice s a) a = true := by
  rw [unstable_iff, mapDevice_devices, mem_insertAddr]
  exact .inl (.inl rfl)

/-- R50: a host write is read back, and no other byte is touched. -/
theorem memRead_hostWrite {s : State} {a : Addr} {b : Byte} (hwf : s.mem.wf) (x : Addr) :
    memRead (hostWrite s a b) x = if x = a then b else memRead s x := by
  rw [memRead, memRead, hostWrite_mem, Memory.read_write hwf]
  exact ite_congr (propext BitVec.toNat_inj) (fun _ => rfl) fun _ => rfl

/-- Settles O16: a write is read back, and the byte joins the disturbed ones when it is the buffer's. -/
theorem hostWriteChangesOneByte : Obligations.HostWriteChangesOneByte := by
  intro s a b rest hwf hin
  have hread := memRead_hostWrite (s := s.setInputs rest) (a := a) (b := b) hwf
  refine ⟨_, step_of_memWrite hin, (hread a).trans (if_pos rfl), fun x hx => (hread x).trans (if_neg hx),
    hostWrite_base _ a b, hostWrite_len _ a b, hostWrite_pos _ a b, hostWrite_snap _ a b,
    hostWrite_response _ a b, hostWrite_devices _ a b, hostWrite_draws _ a b, hostWrite_unitNo _ a b, hostWrite_inputs _ a b, fun x => ?_⟩
  rw [mem_hostWrite_disturbed, or_comm, and_comm]
  rfl

/-- A position in the buffer reads a free value in a state that differs from an earlier one in what is unstable, and calls
the position's byte so. -/
theorem streamBit_free_of_unstable {s t : State} {a : Addr} {p : Nat} (hbase : t.base = s.base) (hlen : t.len = s.len)
    (hunit : t.unitNo = s.unitNo) (hdraws : t.draws = s.draws) (hp : p < s.len.toNat) (ha : byteAddr s p = a)
    (h : unstable t a = true) : streamBit t p = Config.freeBit s.unitNo s.draws p := by
  rw [← hunit, ← hdraws]
  refine streamBit_of_unstable (by rwa [hlen]) ?_
  rwa [byteAddr_congr hbase, ha]

/-- Settles O17: a host write makes the bytes of the buffer unstable, `mapDevice` every byte. -/
theorem bitsOfAnUnstableByteAreFree : Obligations.BitsOfAnUnstableByteAreFree := by
  constructor
  · rintro s t a p (⟨b, rest, hin⟩ | ⟨rest, hin⟩) ht hp rfl
    · cases (step_of_memWrite hin).symm.trans ht
      exact streamBit_free_of_unstable (s := s) (hostWrite_base _ _ b) (hostWrite_len _ _ b) (hostWrite_unitNo _ _ b)
        (hostWrite_draws _ _ b) hp rfl (unstable_hostWrite (inBuffer_byteAddr hp))
    · cases (step_of_mapDevice hin).symm.trans ht
      exact streamBit_free_of_unstable (s := s) rfl rfl rfl rfl hp rfl (unstable_mapDevice _ _)
  · intro s a rest hin
    refine ⟨_, step_of_mapDevice hin, rfl, rfl, rfl, rfl, fun _ => rfl, rfl, fun x => ?_, rfl, rfl, rfl, rfl, rfl⟩
    rw [mapDevice_devices, mem_insertAddr, or_comm]
    rfl

/-- Settles O18: the `INIT` clears the disturbed set, so the byte is stable and holds what was written. -/
theorem hostWriteIsSeenByTheNextSession : Obligations.HostWriteIsSeenByTheNextSession := by
  intro s a b r rest p hwf hdev hin hinit
  have hwrite := step_of_memWrite hin
  have hsession := step_of_decode_ok (s := hostWrite (s.setInputs (.command r :: rest)) a b) (hostWrite_inputs _ _ _) hinit
  refine ⟨_, (run_succ_of_step hwrite).trans (run_succ_of_step (hsession.trans (exec_init _))), fun hp ha => ?_⟩
  rw [streamBit_of_stable hp, ha]
  · have hread := (memRead_hostWrite (s := s.setInputs (.command r :: rest)) (b := b) hwf a).trans (if_pos rfl)
    exact congrArg (fun x => x.getLsbD (7 - p % 8)) hread
  · rw [ha, ← Bool.not_eq_true, unstable_iff]
    simp [hdev]

/-! ### Saturation and the parts of a read -/

/-- R24: where the cursor saturates, it stands past the end. -/
theorem overread_advance_of_saturated {s : State LEN_W ADDR_W KMAX} {n : Nat}
    (h : 2 ^ (LEN_W + 1) - 1 < s.pos.toNat + n) : Overread (advance s n) := by
  have hlen := s.len.isLt
  rw [Overread, advance_len, advance_pos_toNat]
  rw [pow_succ] at h ⊢
  omega

/-- R24: what is read at the cursor after an advance is what the true position holds, saturated or not. -/
theorem readStream_advance_pos (s : State LEN_W ADDR_W KMAX) (a n : Nat) :
    readStream s (advance s a).pos.toNat n = readStream s (s.pos.toNat + a) n := by
  rcases Nat.lt_or_ge (2 ^ (LEN_W + 1) - 1) (s.pos.toNat + a) with hsat | hfits
  · have hover : s.len.toNat < (advance s a).pos.toNat := overread_advance_of_saturated hsat
    rw [readStream_of_le hover.le, readStream_of_le ((len_lt_advance_pos_iff s a).1 hover).le]
  · rw [advance_pos_toNat, Nat.min_eq_left hfits]

/-- Settles O24: `POS_MAX` lies beyond every `LEN`, so both the saturated and the true position read fill. -/
theorem advanceSaturates : Obligations.AdvanceSaturates := by
  intro LEN_W ADDR_W KMAX s n
  refine ⟨advance_pos_toNat s n, pos_le_advance_pos s n, fun hsat => ?_⟩
  have hover := overread_advance_of_saturated hsat
  refine ⟨hover, fun m => ⟨readStream_of_le hover.le m, readStream_of_le ?_ m⟩⟩
  exact ((len_lt_advance_pos_iff s n).1 hover).le

/-- R65: a value of at most 32 bits fits the result port. -/
theorem resultUnsigned_readStream (s : State LEN_W ADDR_W KMAX) (p : Nat) {n : Nat} (hn : n ≤ 32) :
    (resultUnsigned (readStream s p n)).toNat = readStream s p n :=
  resultUnsigned_toNat ((readStream_lt s p n).trans_le (Nat.pow_le_pow_right (by decide) (by omega)))

/-- The machine after a `READ_BITS`. -/
def pastBits (s : State) (n : Nat) : State :=
  respond (nextDraw (advance s n)) (resultUnsigned (readStream s s.pos.toNat n)) false false

theorem exec_readBits_pastBits {n : BitVec 6} (hn : n.toNat ≤ 32) (s : State) :
    exec (.readBits n) s = .next (pastBits s n.toNat) := exec_readBits hn s

theorem pastBits_pos (s : State) (n : Nat) : (pastBits s n).pos = (advance s n).pos := rfl

theorem pastBits_len (s : State) (n : Nat) : (pastBits s n).len = s.len := rfl

theorem pastBits_response (s : State) (n : Nat) : (pastBits s n).response =
    some { result := resultUnsigned (readStream s s.pos.toNat n), st := statusWord false (negFlag (advance s n)) false } :=
  rfl

/-- R49: in a buffer the host leaves alone the next command reads on in the same stream. -/
theorem readStream_pastBits {s : State} (h : Undisturbed s) (a n : Nat) :
    readStream (pastBits s a) (pastBits s a).pos.toNat n = readStream s (s.pos.toNat + a) n := by
  have hafter : Undisturbed (pastBits s a) := undisturbed_congr rfl rfl rfl rfl h
  have hbits (p : Nat) : streamBit (pastBits s a) p = streamBit s p :=
    streamBit_congr_of_undisturbed h hafter rfl rfl (fun _ _ => rfl) p
  rw [readStream_congr fun _ _ => hbits _, pastBits_pos, readStream_advance_pos]

/-- Settles O21: the second read goes on where the first stopped, or past the end where the cursor saturated. -/
theorem oneReadEqualsTwoReadsOfItsParts : Obligations.OneReadEqualsTwoReadsOfItsParts := by
  intro s n n₁ n₂ hsum hn hundisturbed
  have hpos : (pastBits (pastBits s n₁.toNat) n₂.toNat).pos = (pastBits s n.toNat).pos := by
    rw [pastBits_pos, pastBits_pos, hsum, ← advance_advance]
    rfl
  refine ⟨_, _, _, _, _, _, exec_readBits_pastBits hn s, exec_readBits_pastBits (by omega) s,
    exec_readBits_pastBits (by omega) _, pastBits_response _ _, pastBits_response _ _, pastBits_response _ _, ?_, hpos, ?_⟩
  · rw [resultUnsigned_readStream _ _ hn, resultUnsigned_readStream _ _ (by omega),
      resultUnsigned_readStream _ _ (by omega), readStream_pastBits hundisturbed, hsum, readStream_add]
  · have hneg : (advance (pastBits s n₁.toNat) n₂.toNat).pos = (advance s n.toNat).pos := hpos
    rw [neg_statusWord, neg_statusWord, negFlag, negFlag, bitsLeft, bitsLeft, hneg]
    rfl

/-- Settles O29: the bits past the end are fill, and the cursor advances by the full width or saturates past the end. -/
theorem readBitsPastTheEndIsFilledWithZeros : Obligations.ReadBitsPastTheEndIsFilledWithZeros := by
  intro s n hn hover
  have hover' : Overread (advance s n.toNat) := (len_lt_advance_pos_iff s n.toNat).2 hover
  refine ⟨_, _, exec_readBits_pastBits hn s, pastBits_response _ _, (neg_respond_advance_iff s n.toNat _ _ _).2 hover,
    uef_statusWord _ _ _ _, ?_, ?_, ?_⟩
  · rw [resultUnsigned_readStream _ _ hn]
    exact readStream_of_end_le (by omega) (by omega)
  · rw [bitsLeft, pastBits_pos, pastBits_len, advance_pos_toNat]
    omega
  · exact Int.lt_of_le_of_lt (bitsLeft_le_neg_one_of_overread hover') (by decide)

/-- Settles O3: past the end of the empty buffer reads give fill, and the Exp-Golomb scan finds no one. -/
theorem commandsBeforeInitSeeAnEmptyBuffer : Obligations.CommandsBeforeInitSeeAnEmptyBuffer := by
  intro m n hn
  have hempty (p : Nat) : (State.reset.setMem m).len.toNat ≤ p := Nat.zero_le p
  have hnone : uePrefix (State.reset.setMem m) = none :=
    uePrefix_eq_none.2 fun _ _ => streamBit_of_le (hempty _)
  refine ⟨⟨_, _, exec_readBits_pastBits hn _, pastBits_response _ _, ?_, ?_⟩,
    ⟨_, _, exec_readUe_of_none hnone, respond_response _ _ _ _, rfl, uef_statusWord _ _ _ _, rfl⟩,
    ⟨_, _, exec_bitsLeft _, respond_response _ _ _ _, rfl, neg_statusWord _ _ _ _⟩⟩
  · rw [readStream_of_le (hempty _)]
    rfl
  · have hlen : (State.reset.setMem m).len.toNat = 0 := rfl
    have hpos : (State.reset.setMem m).pos.toNat = 0 := rfl
    rw [bitsLeft, pastBits_pos, pastBits_len, advance_pos_toNat, hlen, hpos]
    omega

end Sys2Proof.Machine
end

section
/-! Invariants and runs: the machine invariant (R31, R144), the overread (R142, R151), the snapshot (R125, R130, R131). -/

namespace Sys2Proof.Machine

open Sys2Proof

/-! ### The status bits that stand together -/

/-- R29, R141, R144: the response a command ends with, and what its bits say. -/
theorem exec_status {i : Instr} {s t : State} (h : exec i s = .next t) :
    ∃ q, t.response = some q ∧ ResponseConsistent t q ∧ (q.uef = true → i = .readUe ∨ i = .readSe)
      ∧ (i.wellFormed = true → q.ill = false) := by
  cases performs_of_exec h with
  | fail hi v =>
    have hneg := (neg_of_respond (nextDraw (ueFail s)) v false true).2 (overread_ueFail s)
    exact ⟨_, respond_response _ _ _ _, ⟨neg_of_respond _ _ _ _, fun _ => hneg, by simp⟩, fun _ => hi, fun _ => by simp⟩
  | tooWide hn =>
    exact ⟨_, illegalCommand_response s, ⟨neg_of_respond _ _ _ _, by simp, fun _ => ⟨by simp, rfl⟩⟩, by simp,
      fun hwf => absurd (wellFormed_readBits.1 hwf) (by omega)⟩
  | _ => exact ⟨_, respond_response _ _ _ _, ⟨neg_of_respond _ _ _ _, by simp, by simp⟩, by simp, by simp⟩

/-- R141. -/
theorem illegalCommand_consistent (s : State) :
    ∀ r ∈ (illegalCommand s).response, ResponseConsistent (illegalCommand s) r := by
  rintro _ ⟨⟩
  exact ⟨neg_of_respond _ _ _ _, by simp, fun _ => ⟨by simp, rfl⟩⟩

/-- Settles O48: a legal word's command sets `ILL` never and `UEF` only where it fails past the end; an illegal word's
response is the one of R141. -/
theorem statusBitsThatStandTogether : Obligations.StatusBitsThatStandTogether := by
  intro s t r rest hin ht
  cases hd : decode r.cmd with
  | error e =>
    cases (step_of_decode_error hin hd).symm.trans ht
    have hillegal : legal r.cmd = false := by
      rw [← Bool.not_eq_true, ← exists_decode_eq_ok_iff_legal]
      rintro ⟨i, hi⟩
      cases hd.symm.trans hi
    exact ⟨_, illegalCommand_response _, iff_of_true (ill_statusWord _ _ _ _) hillegal,
      fun _ => ⟨uef_statusWord _ _ _ _, rfl⟩, by simp⟩
  | ok i =>
    obtain ⟨-, -, -, hwf⟩ := decode_eq_ok.1 hd
    obtain ⟨q, hq, ⟨-, huef, hill⟩, hread, hlegal⟩ := exec_status ((step_of_decode_ok hin hd).symm.trans ht)
    refine ⟨q, hq, iff_of_false (by simp [hlegal hwf]) (by simp [legal_of_decode hd]), hill, fun hu => ⟨huef hu, ?_⟩⟩
    rcases hread hu with rfl | rfl
    · exact .inl rfl
    · exact .inr rfl

/-! ### The machine invariant -/

/-- The invariant's part about the registers, the memory and the address sets (R31, R49). -/
structure StateInv (s : State) : Prop where
  snap_le : s.snap.toNat ≤ s.pos.toNat
  mem : s.mem.wf
  devices : addrsWf s.devices
  disturbed : addrsWf s.disturbed
  inside : ∀ a ∈ s.disturbed, inBuffer s (BitVec.ofNat 64 a) = true

/-- The invariant's part about the response (R144). -/
def ResponseInv (s : State) : Prop := ∀ r ∈ s.response, ResponseConsistent s r

theorem machineInv_iff {s : State} : MachineInv s ↔ StateInv s ∧ ResponseInv s :=
  ⟨fun ⟨hsnap, hmem, hdev, hdist, hin, hresp⟩ => ⟨⟨hsnap, hmem, hdev, hdist, hin⟩, hresp⟩,
    fun ⟨⟨hsnap, hmem, hdev, hdist, hin⟩, hresp⟩ => ⟨hsnap, hmem, hdev, hdist, hin, hresp⟩⟩

theorem addrsWf_nil : addrsWf [] 64 := by simp [addrsWf]

/-- R49: at the start of a session no byte counts as disturbed. -/
theorem StateInv.of_no_disturbed {s : State} (hsnap : s.snap.toNat ≤ s.pos.toNat) (hmem : s.mem.wf)
    (hdev : addrsWf s.devices) (hdist : s.disturbed = []) : StateInv s where
  snap_le := hsnap
  mem := hmem
  devices := hdev
  disturbed := hdist ▸ addrsWf_nil
  inside := by simp [hdist]

/-- Settles O4: the reset values are zeros and empty sets, and no response is held. -/
theorem resetMeetsTheInvariant : Obligations.ResetMeetsTheInvariant := by
  refine machineInv_iff.2 ⟨.of_no_disturbed (le_refl _) reset_mem_wf addrsWf_nil rfl, ?_⟩
  rintro _ ⟨⟩

section
variable {s t : State}

/-- R31: every command keeps the snapshot behind the cursor. -/
theorem exec_snap_le_pos {i : Instr} (hs : s.snap.toNat ≤ s.pos.toNat) (h : exec i s = .next t) :
    t.snap.toNat ≤ t.pos.toNat := by
  cases performs_of_exec h with
  | init | snap | restore => exact le_refl _
  | bitsLeft | tooWide => exact hs
  | skip | read => exact hs.trans (pos_le_advance_pos s _)
  | fail =>
    rw [ueFail_eq_advance]
    exact hs.trans (pos_le_advance_pos s _)

theorem StateInv.exec {i : Instr} (hs : StateInv s) (h : exec i s = .next t) : StateInv t := by
  obtain ⟨hmem, hdev, -⟩ := exec_keeps_surroundings h
  have hsnap := exec_snap_le_pos hs.snap_le h
  by_cases hi : i = .init
  · subst hi
    refine .of_no_disturbed hsnap (hmem ▸ hs.mem) (hdev ▸ hs.devices) ?_
    cases (exec_init s).symm.trans h
    rfl
  · obtain ⟨hbase, hlen, hdist⟩ := exec_keeps_session h hi
    refine ⟨hsnap, hmem ▸ hs.mem, hdev ▸ hs.devices, hdist ▸ hs.disturbed, fun a ha => ?_⟩
    rw [inBuffer_congr hbase hlen]
    exact hs.inside a (hdist ▸ ha)

/-- R49: a host write keeps the canonical forms, and disturbs bytes of the buffer only. -/
theorem StateInv.hostWrite (hs : StateInv s) (a : Addr) (b : Byte) : StateInv (hostWrite s a b) where
  snap_le := by simpa using hs.snap_le
  mem := by
    rw [hostWrite_mem]
    exact Memory.write_wf hs.mem a.isLt b
  devices := by simpa using hs.devices
  disturbed := by
    rw [Machine.hostWrite]
    split
    · exact insertAddr_wf hs.disturbed a.isLt
    · exact hs.disturbed
  inside := by
    intro x hx
    rw [inBuffer_hostWrite]
    rcases (mem_hostWrite_disturbed s a b).1 hx with ⟨ha, rfl⟩ | hx
    · rwa [BitVec.ofNat_toNat, BitVec.setWidth_eq]
    · exact hs.inside x hx

theorem StateInv.mapDevice (hs : StateInv s) (a : Addr) : StateInv (mapDevice s a) where
  snap_le := hs.snap_le
  mem := hs.mem
  devices := insertAddr_wf hs.devices a.isLt
  disturbed := hs.disturbed
  inside := hs.inside

/-- What stands on the ports and what is still to come is no part of the invariant. -/
theorem StateInv.accept (hs : StateInv s) (r : Request) (rest : List Input) : StateInv (accept s r rest) :=
  ⟨hs.snap_le, hs.mem, hs.devices, hs.disturbed, hs.inside⟩

theorem StateInv.setInputs (hs : StateInv s) (rest : List Input) : StateInv (s.setInputs rest) :=
  ⟨hs.snap_le, hs.mem, hs.devices, hs.disturbed, hs.inside⟩

theorem stateInv_step (hs : StateInv s) (h : step s = .next t) : StateInv t := by
  rcases step_cases h with ⟨-, rfl⟩ | ⟨r, rest, i, -, -, he⟩ | ⟨r, rest, e, -, -, rfl⟩ | ⟨a, b, rest, -, rfl⟩ |
    ⟨a, rest, -, rfl⟩ | ⟨rest, -, rfl⟩
  · exact hs
  · exact (hs.accept r rest).exec he
  · exact ⟨hs.snap_le, hs.mem, hs.devices, hs.disturbed, hs.inside⟩
  · exact (hs.setInputs rest).hostWrite a b
  · exact (hs.setInputs rest).mapDevice a
  · exact .of_no_disturbed (le_refl _) hs.mem hs.devices rfl

/-- R29, R141, R144, R160: a command's response is consistent, a reset leaves none, and nothing else touches the response
or what it speaks of. -/
theorem responseInv_step (hs : ResponseInv s) (h : step s = .next t) : ResponseInv t := by
  rcases step_cases h with ⟨-, rfl⟩ | ⟨r, rest, i, -, -, he⟩ | ⟨r, rest, e, -, -, rfl⟩ | ⟨a, b, rest, -, rfl⟩ |
    ⟨a, rest, -, rfl⟩ | ⟨rest, -, rfl⟩
  · exact hs
  · obtain ⟨q, hq, hcons, -⟩ := exec_status he
    intro r hr
    rw [hq] at hr
    cases hr
    exact hcons
  · exact illegalCommand_consistent _
  · simpa [ResponseInv, ResponseConsistent, Overread] using hs
  · exact hs
  · rintro _ ⟨⟩

end

/-- Settles O49: the two parts of the invariant are kept each by itself. -/
theorem everyStepKeepsTheInvariant : Obligations.EveryStepKeepsTheInvariant := by
  intro s t hinv h
  obtain ⟨hstate, hresp⟩ := machineInv_iff.1 hinv
  exact machineInv_iff.2 ⟨stateInv_step hstate h, responseInv_step hresp h⟩

theorem run_keeps_machineInv {k : Nat} {s t : State} (hinv : MachineInv s) (h : run k s = .next t) : MachineInv t :=
  run_keeps (Q := fun _ => True) (fun s t _ _ hs _ _ ht => everyStepKeepsTheInvariant s t hs ht) h hinv
    fun _ _ => trivial

/-! ### What a step does to the registers -/

section
variable {s t : State}

/-- Only a legal command and a reset can touch a register. -/
theorem step_registers_cases (h : step s = .next t) :
    (∃ r rest i, s.inputs = .command r :: rest ∧ decode r.cmd = .ok i ∧ exec i (accept s r rest) = .next t)
    ∨ (∃ rest, s.inputs = .reset :: rest ∧ t = externalReset (s.setInputs rest))
    ∨ SameRegisters s t := by
  rcases step_cases h with ⟨-, rfl⟩ | hcommand | ⟨r, rest, e, -, -, rfl⟩ | ⟨a, b, rest, -, rfl⟩ |
    ⟨a, rest, -, rfl⟩ | hreset
  · exact .inr (.inr ⟨rfl, rfl, rfl, rfl⟩)
  · exact .inl hcommand
  · exact .inr (.inr ⟨rfl, rfl, rfl, rfl⟩)
  · exact .inr (.inr ⟨by simp, by simp, by simp, by simp⟩)
  · exact .inr (.inr ⟨rfl, rfl, rfl, rfl⟩)
  · exact .inr (.inl hreset)

/-- R21, R26: only an `INIT` and a reset write `BASE` and `LEN`. -/
theorem step_keeps_base_len (h : step s = .next t) (hx : ∀ x ∈ s.inputs.head?, x ≠ .reset ∧ x.instr? ≠ some .init) :
    t.base = s.base ∧ t.len = s.len := by
  rcases step_registers_cases h with ⟨r, rest, i, hin, hd, he⟩ | ⟨rest, hin, -⟩ | hsame
  · rw [hin] at hx
    obtain ⟨-, hinit⟩ := hx _ rfl
    rw [instr?_command hd] at hinit
    obtain ⟨hbase, hlen, -⟩ := exec_keeps_session he fun hi => hinit (congrArg some hi)
    exact ⟨hbase, hlen⟩
  · rw [hin] at hx
    exact absurd rfl (hx _ rfl).1
  · exact ⟨hsame.base, hsame.len⟩

/-- R25: only an `INIT`, a `SNAP` and a reset write the snapshot. -/
theorem step_keeps_snap (h : step s = .next t) (hx : ∀ x ∈ s.inputs.head?, ¬ x.writesSnap) : t.snap = s.snap := by
  rcases step_registers_cases h with ⟨r, rest, i, hin, hd, he⟩ | ⟨rest, hin, -⟩ | hsame
  · rw [hin] at hx
    have hwrites := hx _ rfl
    rw [Input.writesSnap, instr?_command hd] at hwrites
    refine exec_keeps_snap (s := accept s r rest) he ?_ ?_ <;> rintro rfl <;> simp at hwrites
  · rw [hin] at hx
    exact absurd (.inl rfl) (hx _ rfl)
  · exact hsame.snap

/-- R23: only an `INIT`, a `RESTORE` and a reset move the cursor back. -/
theorem step_pos_le (h : step s = .next t) (hx : ∀ x ∈ s.inputs.head?, ¬ x.endsOverread) :
    s.pos.toNat ≤ t.pos.toNat := by
  rcases step_registers_cases h with ⟨r, rest, i, hin, hd, he⟩ | ⟨rest, hin, -⟩ | hsame
  · rw [hin] at hx
    have hends := hx _ rfl
    rw [Input.endsOverread, instr?_command hd] at hends
    refine exec_pos_le (s := accept s r rest) he ?_ ?_ <;> rintro rfl <;> simp at hends
  · rw [hin] at hx
    exact absurd (.inl rfl) (hx _ rfl)
  · rw [hsame.pos]

/-- R31: every step keeps the snapshot behind the cursor. -/
theorem step_snap_le_pos (hs : s.snap.toNat ≤ s.pos.toNat) (h : step s = .next t) : t.snap.toNat ≤ t.pos.toNat := by
  rcases step_registers_cases h with ⟨r, rest, i, -, -, he⟩ | ⟨rest, -, rfl⟩ | hsame
  · exact exec_snap_le_pos (s := accept s r rest) hs he
  · exact le_refl _
  · rwa [hsame.snap, hsame.pos]

/-- R142: what does not move the cursor back ends no overread. -/
theorem step_keeps_overread (hs : Overread s) (h : step s = .next t) (hx : ∀ x ∈ s.inputs.head?, ¬ x.endsOverread) :
    Overread t := by
  have hpos := step_pos_le h hx
  obtain ⟨-, hlen⟩ := step_keeps_base_len h fun x hmem =>
    ⟨fun hreset => hx x hmem (.inl hreset), fun hinit => hx x hmem (.inr (.inl hinit))⟩
  rw [Overread, hlen]
  exact hs.trans_le hpos

end

/-- Settles O26: an `INIT` takes its operands, a reset zeros, and the rest keeps both. -/
theorem baseAndLenChangeOnlyAtInitOrReset : Obligations.BaseAndLenChangeOnlyAtInitOrReset := by
  intro s t h
  refine ⟨fun r rest hin hd => ?_, fun rest hin => ?_, step_keeps_base_len h⟩
  · cases ((step_of_decode_ok hin hd).trans (exec_init _)).symm.trans h
    exact ⟨rfl, rfl⟩
  · cases (step_of_reset hin).symm.trans h
    exact ⟨rfl, rfl⟩

/-! ### Runs -/

/-- Settles O50: the snapshot starts at the cursor and stays behind it; the other bounds are the registers' widths. -/
theorem reachableSnapshotIsNeverAheadOfTheCursor : Obligations.ReachableSnapshotIsNeverAheadOfTheCursor := by
  intro m inputs k t h
  have hpos := t.pos.isLt
  have hlen := t.len.isLt
  refine ⟨?_, by omega, by omega⟩
  exact run_keeps (P := fun s => s.snap.toNat ≤ s.pos.toNat) (Q := fun _ => True)
    (fun s t _ _ hs _ _ ht => step_snap_le_pos hs ht) h (le_refl _) fun _ _ => trivial

/-- The condition of a step's rule about the input it takes, from that input. -/
theorem forall_head_of_cons {s : State} {x : Input} {rest : List Input} {Q : Input → Prop} (hin : s.inputs = x :: rest)
    (hx : Q x) : ∀ y ∈ s.inputs.head?, Q y := by
  rw [hin]
  rintro _ ⟨⟩
  exact hx

/-- R29: what a step leaves as the response is new and consistent, or the old one. -/
theorem step_response_cases {s t : State} (h : step s = .next t) :
    t.response = s.response ∨ ∀ q ∈ t.response, (q.neg = true ↔ Overread t) := by
  rcases step_cases h with ⟨-, rfl⟩ | ⟨r, rest, i, -, -, he⟩ | ⟨r, rest, e, -, -, rfl⟩ | ⟨a, b, rest, -, rfl⟩ |
    ⟨a, rest, -, rfl⟩ | ⟨rest, -, rfl⟩
  · exact .inl rfl
  · obtain ⟨q, hq, ⟨hneg, -⟩, -⟩ := exec_status he
    refine .inr fun r hr => ?_
    rw [hq] at hr
    cases hr
    exact hneg
  · exact .inr fun q hq => (illegalCommand_consistent _ q hq).1
  · exact .inl (by simp)
  · exact .inl rfl
  · exact .inr (by simp)

theorem run_keeps_overread {k : Nat} {s t : State} (h : run k s = .next t) (hs : Overread s)
    (hx : ∀ x ∈ s.inputs.take k, ¬ x.endsOverread) : Overread t :=
  run_keeps (Q := fun x => ¬ x.endsOverread)
    (fun _ _ _ _ hs hin hx ht => step_keeps_overread hs ht (forall_head_of_cons hin hx)) h hs hx

/-- An overread state whose response, if any, shows the overread. -/
def ShownOverread (s : State) : Prop := Overread s ∧ ∀ q ∈ s.response, q.neg = true

theorem step_keeps_shownOverread {s t : State} (hs : ShownOverread s) (h : step s = .next t)
    (hx : ∀ x ∈ s.inputs.head?, ¬ x.endsOverread) : ShownOverread t := by
  obtain ⟨hover, hshown⟩ := hs
  have hover' := step_keeps_overread hover h hx
  refine ⟨hover', fun q hq => ?_⟩
  rcases step_response_cases h with hkept | hnew
  · exact hshown q (hkept ▸ hq)
  · exact (hnew q hq).2 hover'

/-- Settles O51: the cursor stays past the end as long as nothing moves it back, and each response reads it there. -/
theorem overreadLastsUntilInitOrRestore : Obligations.OverreadLastsUntilInitOrRestore := by
  intro k s t h hs hx
  have hover := run_keeps_overread h hs hx
  refine ⟨hover, Int.lt_of_le_of_lt (bitsLeft_le_neg_one_of_overread hover) (by decide), fun hshown => ?_⟩
  obtain ⟨-, hshown'⟩ := run_keeps (Q := fun x => ¬ x.endsOverread)
    (fun _ _ _ _ hs hin hx ht => step_keeps_shownOverread hs ht (forall_head_of_cons hin hx)) h ⟨hs, hshown⟩ hx
  exact hshown'

/-- Settles O52: an overread on the way would have lasted to the end, and without one a consistent response shows neither
an overread nor a failure. -/
theorem acceptedParseHadNoFailure : Obligations.AcceptedParseHadNoFailure := by
  intro j k s u t hinv hsu hut hx hend
  have hover : ¬ Overread u := fun hu => hend (run_keeps_overread hut hu hx)
  obtain ⟨-, hresp⟩ := machineInv_iff.1 (run_keeps_machineInv hinv hsu)
  refine ⟨hover, fun q hq => ?_⟩
  obtain ⟨hneg, huef, -⟩ := hresp q hq
  have hneg' : q.neg ≠ true := fun h => hover (hneg.1 h)
  exact ⟨by simpa using hneg', by simpa using mt huef hneg'⟩

/-! ### The snapshot over a run -/

/-- R20: the registers a `RESTORE` returns to. -/
def SessionAt (base : Addr) (len : BitLen) (snap : Cursor) (s : State) : Prop :=
  s.base = base ∧ s.len = len ∧ s.snap = snap

theorem run_keeps_session {base : Addr} {len : BitLen} {snap : Cursor} {k : Nat} {s t : State}
    (h : run k s = .next t) (hs : SessionAt base len snap s) (hx : ∀ x ∈ s.inputs.take k, ¬ x.writesSnap) :
    SessionAt base len snap t := by
  refine run_keeps (Q := fun x => ¬ x.writesSnap) (fun s t x rest hs hin hx ht => ?_) h hs hx
  obtain ⟨hbase, hlen, hsnap⟩ := hs
  obtain ⟨hbase', hlen'⟩ := step_keeps_base_len ht
    (forall_head_of_cons hin ⟨fun hreset => hx (.inl hreset), fun hinit => hx (.inr (.inl hinit))⟩)
  have hsnap' := step_keeps_snap ht (forall_head_of_cons hin hx)
  exact ⟨hbase'.trans hbase, hlen'.trans hlen, hsnap'.trans hsnap⟩

/-- A run whose first step leaves the session at given registers, and in which nothing after it writes the snapshot. -/
theorem run_succ_keeps_session {base : Addr} {len : BitLen} {snap : Cursor} {k : Nat} {s u t : State} {x : Input}
    {rest : List Input} (hin : s.inputs = x :: rest) (hfirst : step s = .next u) (hu : SessionAt base len snap u)
    (hx : ∀ x ∈ rest.take k, ¬ x.writesSnap) (h : run (k + 1) s = .next t) : SessionAt base len snap t := by
  rw [run_succ_of_step hfirst] at h
  refine run_keeps_session h hu ?_
  rw [step_inputs hfirst, hin]
  exact hx

/-- A run's last step. -/
theorem run_succ_last {k : Nat} {s u t : State} (hu : run k s = .next u) (ht : run (k + 1) s = .next t) :
    step u = .next t := by
  induction k generalizing s with
  | zero =>
    cases hu
    obtain ⟨v, hv, hrun⟩ := run_succ ht
    cases hrun
    exact hv
  | succ k ih =>
    obtain ⟨v, hv, hrun⟩ := run_succ hu
    rw [run_succ_of_step hv] at ht
    exact ih hrun ht

/-- R130: what a `RESTORE` leaves, by the session it is performed in. -/
theorem exec_restore_of_session {base : Addr} {len : BitLen} {snap : Cursor} {s t : State}
    (hs : SessionAt base len snap s) (h : exec .restore s = .next t) : t.pos = snap ∧ t.base = base ∧ t.len = len := by
  obtain ⟨hbase, hlen, hsnap⟩ := hs
  cases (exec_restore s).symm.trans h
  exact ⟨hsnap, hbase, hlen⟩

/-- Settles O53: the `SNAP` fixes the session, the inputs after it leave it so, and the `RESTORE` returns to it. -/
theorem restoreUndoesEverythingSinceSnap : Obligations.RestoreUndoesEverythingSinceSnap := by
  intro k s u t r r' rest hin hsnap hx hrun hhead hrestore hrun'
  have hfirst := (step_of_decode_ok hin hsnap).trans (exec_snap _)
  have hu : SessionAt s.base s.len s.pos u :=
    run_succ_keeps_session hin hfirst ⟨rfl, rfl, rfl⟩ hx hrun
  obtain ⟨rest', hin'⟩ := List.head?_eq_some_iff.1 hhead
  have hlast := (step_of_decode_ok hin' hrestore).symm.trans (run_succ_last hrun hrun')
  obtain ⟨hpos, hbase, hlen⟩ := exec_restore_of_session (s := accept u r' rest') hu hlast
  exact ⟨hpos, hbase, hlen, by rw [bitsLeft, bitsLeft, hpos, hlen]⟩

/-- R131: with the snapshot 0 a `RESTORE` returns to the start of the buffer. -/
theorem restore_returns_to_start {base : Addr} {len : BitLen} {t : State} (ht : SessionAt base len 0 t) :
    t.snap = 0 ∧ ∃ v, exec .restore t = .next v ∧ v.pos = 0 ∧ v.base = base ∧ v.len = len :=
  ⟨ht.2.2, _, exec_restore t, exec_restore_of_session ht (exec_restore t)⟩

/-- Settles O54: an `INIT`, a reset and power-up leave the snapshot 0, and the inputs after them leave it so. -/
theorem restoreWithoutSnapReturnsToTheStart : Obligations.RestoreWithoutSnapReturnsToTheStart := by
  refine ⟨fun k s t r rest hin hinit hx hrun => ?_, fun k s t rest hin hx hrun => ?_, fun k m inputs t hx hrun => ?_⟩
  · have hfirst := (step_of_decode_ok hin hinit).trans (exec_init _)
    exact restore_returns_to_start (run_succ_keeps_session hin hfirst ⟨rfl, rfl, rfl⟩ hx hrun)
  · exact restore_returns_to_start (run_succ_keeps_session hin (step_of_reset hin) ⟨rfl, rfl, rfl⟩ hx hrun)
  · exact restore_returns_to_start (run_keeps_session hrun ⟨rfl, rfl, rfl⟩ hx)

/-! ### The saturated cursor -/

/-- R80: the step of an `INIT`, as far as the remaining bits go. -/
theorem step_of_init {s : State} {r : Request} {rest : List Input} (hin : s.inputs = .command r :: rest)
    (hd : decode r.cmd = .ok .init) :
    ∃ t, step s = .next t ∧ t.pos.toNat = 0 ∧ t.len = r.argB ∧ t.inputs = rest :=
  ⟨_, (step_of_decode_ok hin hd).trans (exec_init _), rfl, rfl, rfl⟩

/-- R90: the step of a `SKIP_BITS`, as far as the remaining bits go. -/
theorem step_of_skipBits {s : State} {r : Request} {rest : List Input} (hin : s.inputs = .command r :: rest)
    (hd : decode r.cmd = .ok .skipBits) :
    ∃ t, step s = .next t ∧ t.pos.toNat = min (s.pos.toNat + r.argB.toNat) (2 ^ 33 - 1) ∧ t.len = s.len
      ∧ t.inputs = rest :=
  ⟨_, (step_of_decode_ok hin hd).trans (exec_skipBits _), advance_pos_toNat _ _, rfl, rfl⟩

/-- Settles O32: `3 * (2^32 - 1)` is above `POS_MAX`. -/
theorem repeatedSkipsSaturateTheCursor : Obligations.RepeatedSkipsSaturateTheCursor := by
  intro s base rest hin
  have hinit : decode 0x10000000#32 = .ok .init := decode_encode_of_wellFormed (i := .init) rfl
  have hskip : decode 0x30000000#32 = .ok .skipBits := decode_encode_of_wellFormed (i := .skipBits) rfl
  obtain ⟨t₀, h₀, hpos₀, hlen₀, hin₀⟩ := step_of_init hin hinit
  obtain ⟨t₁, h₁, hpos₁, hlen₁, hin₁⟩ := step_of_skipBits hin₀ hskip
  obtain ⟨t₂, h₂, hpos₂, hlen₂, hin₂⟩ := step_of_skipBits hin₁ hskip
  obtain ⟨t₃, h₃, hpos₃, hlen₃, -⟩ := step_of_skipBits hin₂ hskip
  have hrun : run 4 s = .next t₃ :=
    (run_succ_of_step h₀).trans ((run_succ_of_step h₁).trans ((run_succ_of_step h₂).trans (run_succ_of_step h₃)))
  have hlen : t₃.len = 0#32 := hlen₃.trans (hlen₂.trans (hlen₁.trans hlen₀))
  have hpos : t₃.pos.toNat = 8589934591 := by
    rw [hpos₃, hpos₂, hpos₁, hpos₀]
    rfl
  refine ⟨t₃, hrun, hpos, ?_⟩
  rw [bitsLeft, hpos, hlen]
  rfl

end Sys2Proof.Machine
end

section
/-! The pseudo-instructions (R74), and several instances over one memory (R149). -/

namespace Sys2Proof.Machine

open Sys2Proof

variable {LEN_W ADDR_W KMAX : Nat}

/-! ### Host programs of one and two commands -/

/-- A program's first command, performed with the transaction's words on the ports. -/
theorem run_issue_of_exec {c : AsmCmd} {k : Response → HostProg} {i : Instr} {s t : State} {r : Response}
    (hc : transact c s = exec i (accept s c.request s.inputs)) (ht : exec i (accept s c.request s.inputs) = .next t)
    (hr : t.response = some r) : (HostProg.issue c k).run s = (k r).run t :=
  HostProg.run_issue (hc.trans ht) hr

theorem run_init (s : State) (base : Addr) (len : BitLen) (k : Response → HostProg) :
    ∃ t r, (HostProg.issue (.init base len) k).run s = (k r).run t
      ∧ t.base = base ∧ t.len = len ∧ t.pos = 0 ∧ t.snap = 0 :=
  ⟨_, _, run_issue_of_exec (transact_init s base len) (exec_init _) (respond_response _ _ _ _), rfl, rfl, rfl, rfl⟩

theorem run_skipBits (s : State) (count : BitLen) (k : Response → HostProg) :
    ∃ t r, (HostProg.issue (.skipBits count) k).run s = (k r).run t
      ∧ t.pos.toNat = min (s.pos.toNat + count.toNat) (2 ^ 33 - 1)
      ∧ t.base = s.base ∧ t.len = s.len ∧ t.snap = s.snap :=
  ⟨_, _, run_issue_of_exec (transact_skipBits s count) (exec_skipBits _) (respond_response _ _ _ _),
    advance_pos_toNat _ _, rfl, rfl, rfl⟩

/-- R22, R120: the response is the remaining bits, and no register moves. -/
theorem run_bitsLeft (s : State) (k : Response → HostProg) :
    ∃ t r, (HostProg.issue .bitsLeft k).run s = (k r).run t ∧ r.result.toInt = bitsLeft s ∧ SameRegisters s t :=
  ⟨_, _, run_issue_of_exec (transact_bitsLeft s) (exec_bitsLeft _) (respond_response _ _ _ _),
    resultBitsLeft_toInt s, rfl, rfl, rfl, rfl⟩

/-- R83: the response is the next bits; in an undisturbed buffer the later bits are still to be read. -/
theorem run_readBits (s : State) {n : BitVec 6} (hn : n.toNat ≤ 32) (k : Response → HostProg) :
    ∃ t r, (HostProg.issue (.readBits n) k).run s = (k r).run t
      ∧ r.result.toNat = readStream s s.pos.toNat n.toNat
      ∧ t.pos.toNat = min (s.pos.toNat + n.toNat) (2 ^ 33 - 1)
      ∧ (Undisturbed s → ∀ m, readStream t t.pos.toNat m = readStream s (s.pos.toNat + n.toNat) m) := by
  have hbits (p : Nat) : streamBit (accept s (AsmCmd.readBits n).request s.inputs) p = streamBit s p :=
    streamBit_congr rfl rfl rfl rfl rfl rfl fun _ => rfl
  refine ⟨_, _, run_issue_of_exec (transact_readBits s hn) (exec_readBits_pastBits hn _) (pastBits_response _ _), ?_,
    advance_pos_toNat _ _, fun hs m => ?_⟩
  · rw [resultUnsigned_readStream _ _ hn]
    exact readStream_congr fun _ _ => hbits _
  · have hs' : Undisturbed (accept s (AsmCmd.readBits n).request s.inputs) := hs
    exact (readStream_pastBits hs' n.toNat m).trans (readStream_congr fun _ _ => hbits _)

/-! ### The pseudo-instructions -/

/-- Settles O56: the `INIT` puts the cursor at 0, and a count of bits never saturates from there. -/
theorem seekReachesAnyPosition : Obligations.SeekReachesAnyPosition := by
  intro s base len p
  obtain ⟨u, -, hu, hbase, hlen, hpos, hsnap⟩ := run_init s base len fun _ => .issue (.skipBits p) fun _ => .done 0
  obtain ⟨t, -, ht, hpos', hbase', hlen', hsnap'⟩ := run_skipBits u p fun _ => .done 0
  have hp := p.isLt
  refine ⟨t, hu.trans ht, ?_, hsnap'.trans hsnap, hbase'.trans hbase, hlen'.trans hlen⟩
  rw [hpos', hpos, show (0 : Cursor).toNat = 0 from rfl]
  omega

/-- R74: the cursor, from the length the host gave and the remaining bits. -/
theorem len_sub_bitsLeft (s : State) : (s.len.toNat : Int) - bitsLeft s = s.pos.toNat := by
  rw [bitsLeft]
  omega

/-- R74: the host's count of the bits to skip, on the operand port. -/
theorem ofInt_sub_toNat {p q : Nat} (hle : p ≤ q) (hlt : q - p ≤ 2 ^ 32 - 1) :
    (BitVec.ofInt 32 ((q : Int) - p)).toNat = q - p := by
  rw [← Nat.cast_sub hle, BitVec.ofInt_natCast, BitVec.toNat_ofNat]
  exact Nat.mod_eq_of_lt (by omega)

theorem getPos_gives_the_cursor (s : State) : ∃ t, (getPos s.len).run s = some ((s.pos.toNat : Int), t)
    ∧ t.pos = s.pos ∧ t.snap = s.snap ∧ t.base = s.base ∧ t.len = s.len := by
  obtain ⟨t, r, ht, hr, hsame⟩ := run_bitsLeft s fun r => .done (s.len.toNat - r.result.toInt)
  refine ⟨t, ht.trans ?_, hsame.pos, hsame.snap, hsame.base, hsame.len⟩
  rw [HostProg.run_done, hr, len_sub_bitsLeft]

theorem skipTo_reaches (s : State) {q : Nat} (hle : s.pos.toNat ≤ q) (hlt : q - s.pos.toNat ≤ 2 ^ 32 - 1) :
    ∃ t, (skipTo s.len q).run s = some (0, t) ∧ t.pos.toNat = min q (2 ^ 33 - 1) ∧ t.snap = s.snap := by
  obtain ⟨u, r, hu, hr, hsame⟩ := run_bitsLeft s fun r =>
    .issue (.skipBits (BitVec.ofInt 32 (q - (s.len.toNat - r.result.toInt)))) fun _ => .done 0
  obtain ⟨t, -, ht, hpos, -, -, hsnap⟩ := run_skipBits u (BitVec.ofInt 32 (q - (s.len.toNat - r.result.toInt)))
    fun _ => .done 0
  refine ⟨t, hu.trans ht, ?_, hsnap.trans hsame.snap⟩
  rw [hpos, hr, len_sub_bitsLeft, ofInt_sub_toNat hle hlt, hsame.pos, Nat.add_sub_cancel' hle]

theorem skipBytes_advances (s : State) {m : Nat} (hm : 8 * m ≤ 2 ^ 32 - 1) :
    ∃ t, (skipBytes m).run s = some (0, t) ∧ t.pos.toNat = min (s.pos.toNat + 8 * m) (2 ^ 33 - 1) := by
  obtain ⟨t, -, ht, hpos, -⟩ := run_skipBits s (BitVec.ofNat 32 (8 * m)) fun _ => .done 0
  refine ⟨t, ht, ?_⟩
  rw [hpos, BitVec.toNat_ofNat, Nat.mod_eq_of_lt (by omega)]

/-- Settles O57: `LEN` less the remaining bits is the cursor, from which the host counts the bits to skip. -/
theorem getPosSkipToAndSkipBytes : Obligations.GetPosSkipToAndSkipBytes :=
  ⟨getPos_gives_the_cursor, fun s _ => skipTo_reaches s, fun s _ => skipBytes_advances s⟩

/-- R56, R74: two reads of 32 and `n - 32` bits, in an undisturbed buffer, are one of `n`. -/
theorem readLong_is_one_read (s : State) {n : Nat} (hlo : 33 ≤ n) (hhi : n ≤ 64) (hs : Undisturbed s) :
    ∃ t, (readLong n).run s = some ((readStream s s.pos.toNat n : Int), t)
      ∧ t.pos.toNat = min (s.pos.toNat + n) (2 ^ 33 - 1) := by
  obtain ⟨m, rfl⟩ : ∃ m, n = 32 + m := ⟨n - 32, by omega⟩
  have hw : (BitVec.ofNat 6 (32 + m - 32)).toNat = m := by
    rw [BitVec.toNat_ofNat]
    omega
  obtain ⟨u, hi, hu, hhiValue, hpos, hrest⟩ := run_readBits s (n := 32) (by decide) fun hi =>
    .issue (.readBits (BitVec.ofNat 6 (32 + m - 32))) fun lo =>
      .done (hi.result.toNat * 2 ^ (32 + m - 32) + lo.result.toNat)
  obtain ⟨t, lo, ht, hloValue, hpos', -⟩ := run_readBits u (n := BitVec.ofNat 6 (32 + m - 32)) (by omega) fun lo =>
    .done (hi.result.toNat * 2 ^ (32 + m - 32) + lo.result.toNat)
  refine ⟨t, hu.trans (ht.trans ?_), ?_⟩
  · rw [HostProg.run_done, hhiValue, hloValue, hrest hs, hw, readStream_add, Nat.add_sub_cancel_left]
    norm_cast
  · rw [hpos', hpos, hw, min_add_min]
    rfl

theorem readFlag_is_one_bit (s : State) : ∃ t, readFlag.run s = some (((streamBit s s.pos.toNat).toNat : Int), t)
    ∧ t.pos.toNat = min (s.pos.toNat + 1) (2 ^ 33 - 1) := by
  obtain ⟨t, r, ht, hr, hpos, -⟩ := run_readBits s (n := 1) (by decide) fun r => .done r.result.toNat
  refine ⟨t, ht.trans ?_, hpos⟩
  have hbit : readStream s s.pos.toNat 1 = (streamBit s s.pos.toNat).toNat := by
    rw [readStream, readStream_zero, Nat.mul_zero, Nat.zero_add, Nat.add_zero]
  rw [HostProg.run_done, hr, show (1 : BitVec 6).toNat = 1 from rfl, hbit]

/-- Settles O58: the parts of one value (R56), and a run of one bit. -/
theorem readLongIsOneReadAndReadFlagOneBit : Obligations.ReadLongIsOneReadAndReadFlagOneBit :=
  ⟨fun s _ => readLong_is_one_read s, readFlag_is_one_bit⟩

/-- Settles O59: the transaction runs the command as it would run on the ports' old words, which it does not use. -/
theorem uePlusAddsToTheResult : Obligations.UePlusAddsToTheResult := by
  intro s c
  obtain ⟨v, hv⟩ := exists_exec_eq_next .readUe s
  obtain ⟨r, hr, -⟩ := exec_status hv
  have ht := exec_setPort (p := AsmCmd.readUe.request) (fun h => absurd h (by decide)) (fun h => absurd h (by decide)) hv
  exact ⟨_, r, run_issue_of_exec (transact_readUe s) ht hr, hr, v, hv, hr, rfl⟩

/-! ### Several instances -/

section
variable {s t : State}

/-- R40, log 6, 13: a step that takes a command keeps what the units share, and the unit's number. -/
theorem step_command_keeps_surroundings {r : Request} {rest : List Input} (hin : s.inputs = .command r :: rest)
    (h : step s = .next t) : t.mem = s.mem ∧ t.devices = s.devices ∧ t.unitNo = s.unitNo := by
  cases hd : decode r.cmd with
  | ok i =>
    obtain ⟨hmem, hdev, -, -, hunit⟩ := exec_keeps_surroundings ((step_of_decode_ok hin hd).symm.trans h)
    exact ⟨hmem, hdev, hunit⟩
  | error e =>
    cases (step_of_decode_error hin hd).symm.trans h
    exact ⟨rfl, rfl, rfl⟩

end

/-- R149: what a command makes of the unit it is sent to. -/
def commanded (r : Request LEN_W ADDR_W) (u : State LEN_W ADDR_W KMAX) : State LEN_W ADDR_W KMAX :=
  match stepAt (u.setInputs (.command r :: u.inputs)) with
  | .next t => t
  | .fault _ => u
  | .refused _ => u

theorem commandTo_eq_modify (us : List (State LEN_W ADDR_W KMAX)) (n : Nat) (r : Request LEN_W ADDR_W) :
    commandTo us n r = us.modify n (commanded r) := rfl

theorem step_commanded (r : Request) (u : State) :
    step (u.setInputs (.command r :: u.inputs)) = .next (commanded r u) := by
  obtain ⟨t, ht⟩ := exists_step_of_command (s := u.setInputs (.command r :: u.inputs)) rfl
  simp only [commanded, stepAt_eq_step, ht]

theorem commanded_keeps (r : Request) (u : State) : (commanded r u).mem = u.mem ∧ (commanded r u).devices = u.devices
    ∧ (commanded r u).unitNo = u.unitNo :=
  step_command_keeps_surroundings (s := u.setInputs (.command r :: u.inputs)) rfl (step_commanded r u)

/-- What a change of one unit keeps in every unit, it keeps in the list. -/
theorem map_modify_of_keeps {α β : Type} {f : α → α} {g : α → β} (h : ∀ u, g (f u) = g u) (us : List α) (n : Nat) :
    (us.modify n f).map g = us.map g := by
  apply List.ext_getElem?
  intro i
  rw [List.getElem?_map, List.getElem?_map, List.getElem?_modify]
  split
  · cases us[i]? <;> simp [h]
  · simp

/-- What the units share is the same for all (log 13). -/
theorem oneMemory_of_map_eq {us vs : List State}
    (h : vs.map (fun u => (u.mem, u.devices)) = us.map (fun u => (u.mem, u.devices))) (hus : OneMemory us) :
    OneMemory vs := by
  have hfrom : ∀ v ∈ vs, ∃ u ∈ us, u.mem = v.mem ∧ u.devices = v.devices := by
    intro v hv
    obtain ⟨u, hu, he⟩ := List.mem_map.1 (h ▸ List.mem_map_of_mem hv)
    exact ⟨u, hu, congrArg Prod.fst he, congrArg Prod.snd he⟩
  intro v hv w hw
  obtain ⟨u, hu, hmem, hdev⟩ := hfrom v hv
  obtain ⟨x, hx, hmem', hdev'⟩ := hfrom w hw
  obtain ⟨hmem'', hdev''⟩ := hus u hu x hx
  exact ⟨hmem.symm.trans (hmem''.trans hmem'), hdev.symm.trans (hdev''.trans hdev')⟩

theorem oneMemory_writeShared {us : List State} (h : OneMemory us) (a : Addr) (b : Byte) :
    OneMemory (writeShared us a b) := by
  intro v hv w hw
  obtain ⟨u, hu, rfl⟩ := List.mem_map.1 hv
  obtain ⟨x, hx, rfl⟩ := List.mem_map.1 hw
  obtain ⟨hmem, hdev⟩ := h u hu x hx
  exact ⟨by rw [hostWrite_mem, hostWrite_mem, hmem], by rw [hostWrite_devices, hostWrite_devices, hdev]⟩

theorem unitNos_writeShared (us : List State) (a : Addr) (b : Byte) :
    (writeShared us a b).map (fun u => u.unitNo) = us.map (fun u => u.unitNo) := by
  rw [writeShared, List.map_map]
  exact List.map_congr_left fun u _ => hostWrite_unitNo u a b

theorem unitNos_resetUnits (n : Nat) : (resetUnits 32 64 31 n).map (fun u => u.unitNo) = List.range n := by
  rw [resetUnits, List.map_map]
  exact List.map_id _

theorem oneMemory_resetUnits (n : Nat) : OneMemory (resetUnits 32 64 31 n) := by
  intro v hv w hw
  obtain ⟨i, -, rfl⟩ := List.mem_map.1 hv
  obtain ⟨j, -, rfl⟩ := List.mem_map.1 hw
  exact ⟨rfl, rfl⟩

/-- Settles O60: a command modifies one place of the list, and there neither what is shared nor the number. -/
theorem instancesShareNothing : Obligations.InstancesShareNothing := by
  refine ⟨fun us n r hone hown => ?_, fun n => ⟨oneMemory_resetUnits n, ?_, ?_⟩⟩
  · rw [commandTo_eq_modify]
    refine ⟨oneMemory_of_map_eq (map_modify_of_keeps (fun u => ?_) us n) hone, ?_,
      fun a b => ⟨oneMemory_writeShared hone a b, ?_⟩, fun m hm => ?_, fun u hu => ⟨_, step_commanded r u, ?_⟩⟩
    · obtain ⟨hmem, hdev, -⟩ := commanded_keeps r u
      rw [hmem, hdev]
    · rwa [OwnNumbers, map_modify_of_keeps fun u => (commanded_keeps r u).2.2]
    · rwa [OwnNumbers, unitNos_writeShared]
    · simp only [List.getElem?_modify, if_neg hm.symm, id_map']
    · simp only [List.getElem?_modify, hu, if_pos, Option.map_eq_map, Option.map_some]
  · rw [OwnNumbers, unitNos_resetUnits]
    exact List.nodup_range
  · rw [resetUnits, List.length_map, List.length_range]

end Sys2Proof.Machine
end
